-- ==== Sys2Proof/Word.lean ====
section
/-! DEFINITION. The unit of the machine: 8 bits (00_scope.md R6, R7). -/

namespace Sys2Proof

/-- A unit: a byte of raw data, or a character read as its ASCII code (00_scope.md R7, R8). Bit 7 is
the most significant. -/
abbrev Byte := BitVec 8

end Sys2Proof
end

