-- ==== Sys2Proof/Config.lean ====
section
/-! DEFINITION. What is fixed for one machine: the width of lengths, the two enumerations the command
word is made of, and the free values (values the spec leaves open; they have no body, so nothing can be
proved of one of them that does not hold of every value). -/

namespace Sys2Proof

/-- PARAMETER. How far LEN_W lies above its least value (00_scope.md R6, 10_state.md R39; log 1). -/
opaque Config.lenWAboveLeast : Nat

/-- `LEN_W`, the width of LEN, RLEN, IDX, DATA_COUNT and PAD_COUNT: a parameter of the machine, at least 8
(00_scope.md R6). It has no value here, so what is proved holds for every width (log 1). -/
def Config.lenW : Nat := Config.lenWAboveLeast + 8

/-- The four operations, the `op` field of a command (30_encoding.md R91). -/
inductive Op where
  | esz | dms | enc | dec
  deriving DecidableEq, Repr

/-- The eight descriptors, the `var` field of a command (30_encoding.md R92). -/
inductive Variant where
  | hexUpper | hexLower | base32Rfc4648 | base32Hex | base32Crockford
  | base64Rfc4648 | base64Url | base64UrlUnpadded
  deriving DecidableEq, Repr

/-- FREE VALUE. The unit of host memory at a place where neither the host nor the engine has written: IN and
OUT are unspecified at reset (10_state.md R40; log 4). -/
opaque Config.unplaced : (place : Nat) → Byte

/-- FREE VALUE. The content of unit `index` of the write frame of OUT after a call that leaves it
unspecified, at draw `draw` (43_decode.md R226; 93_implementation_defined.md U1, U10; log 8). -/
opaque Config.frameUnit : (draw index : Nat) → Byte

/-- FREE VALUE. RLEN where it is unspecified (93_implementation_defined.md U2; log 8). -/
opaque Config.freeRlen : (draw : Nat) → BitVec Config.lenW

/-- FREE VALUE. What working register number `slot`, `w` bits wide, holds after a call has ended
(10_state.md R35; 93_implementation_defined.md U11; log 9). -/
opaque Config.leftover : (w slot draw : Nat) → BitVec w

/-- FREE VALUE. Whether a running call has ended before the host's next register read takes place: no rule
orders the two (70_reset_and_hazards.md R286, R293; log 14). -/
opaque Config.callEndsFirst : (draw reads : Nat) → Bool

/-- FREE VALUE. The content of an entry of `enc` at or above `2^bps`; never read (30_encoding.md R98;
93_implementation_defined.md U6; log 15). -/
opaque Config.encFiller : (index : Nat) → Byte

/-- FREE VALUE. `pad_symbol` of a record with `has_pad = 0`; never used (30_encoding.md R100; log 15). -/
opaque Config.noPadSymbol : Byte

end Sys2Proof
end

