-- ==== Sys2Proof/Machine/Rom.lean ====
section
/-! DEFINITION. The descriptor ROM: the record (30_encoding.md R96 to R100), the eight records
(40_descriptors.md R140 to R147, reverse tables from the dumps of R149), and the table builder (R132). -/

namespace Sys2Proof.Machine

/-- `pad_policy`, a 2-bit field (30_encoding.md R96). `reserved` is the code `0b11`, which no record
holds. -/
inductive PadPolicy where
  | forbidden | required | optional | reserved
  deriving DecidableEq, Repr

/-- The code of a policy (30_encoding.md R96). -/
def PadPolicy.code : PadPolicy → BitVec 2
  | .forbidden => 0b00#2
  | .required => 0b01#2
  | .optional => 0b10#2
  | .reserved => 0b11#2

/-- A descriptor record (30_encoding.md R100), field for field. -/
structure Descriptor where
  bps : BitVec 3
  bbc : BitVec 3
  bsc : BitVec 4
  padPolicy : PadPolicy
  hasPad : Bool
  padSymbol : Byte
  enc : List Byte
  dec : List Byte
  ign : List Bool
  deriving DecidableEq, Repr

/-- The marker of an invalid character in `dec` (30_encoding.md R99). -/
def invalidEntry : Byte := 0xFF#8

/-- `bits_per_symbol` as a number (30_encoding.md R97). -/
def Descriptor.bitsPerSymbol (D : Descriptor) : Nat := D.bps.toNat

/-- `block_byte_count` as a number (30_encoding.md R97). -/
def Descriptor.blockBytes (D : Descriptor) : Nat := D.bbc.toNat

/-- `block_symbol_count` as a number (30_encoding.md R97). -/
def Descriptor.blockSymbols (D : Descriptor) : Nat := D.bsc.toNat

/-- `D.enc[k]`, table read form (c) of 44_sequencing_and_access.md R243. -/
def Descriptor.encAt (D : Descriptor) (k : Nat) : Byte := D.enc.getD k 0#8

/-- `D.dec[c]` (44_sequencing_and_access.md R243). -/
def Descriptor.decAt (D : Descriptor) (c : Byte) : Byte := D.dec.getD c.toNat invalidEntry

/-- `D.ign[c]` (44_sequencing_and_access.md R243). -/
def Descriptor.ignAt (D : Descriptor) (c : Byte) : Bool := D.ign.getD c.toNat false

/-! Forward tables. -/

/-- `n` consecutive characters from code `lo`. -/
def charRun (lo n : Nat) : List Byte := (List.range n).map fun k => BitVec.ofNat 8 (lo + k)

/-- `0`..`9`. -/
def digitChars : List Byte := charRun 0x30 10

/-- `A`..`Z`. -/
def upperChars : List Byte := charRun 0x41 26

/-- `a`..`z`. -/
def lowerChars : List Byte := charRun 0x61 26

/-- `0123456789ABCDEF` (40_descriptors.md R140). -/
def hexUpperChars : List Byte := digitChars ++ charRun 0x41 6

/-- `0123456789abcdef` (40_descriptors.md R141). -/
def hexLowerChars : List Byte := digitChars ++ charRun 0x61 6

/-- `ABCDEFGHIJKLMNOPQRSTUVWXYZ234567` (40_descriptors.md R142). -/
def base32Chars : List Byte := upperChars ++ charRun 0x32 6

/-- `0123456789ABCDEFGHIJKLMNOPQRSTUV` (40_descriptors.md R143). -/
def base32HexChars : List Byte := digitChars ++ charRun 0x41 22

/-- `0123456789ABCDEFGHJKMNPQRSTVWXYZ` (40_descriptors.md R144): no `I`, `L`, `O`, `U`. -/
def crockfordChars : List Byte :=
  digitChars ++ charRun 0x41 8 ++ charRun 0x4A 2 ++ charRun 0x4D 2 ++ charRun 0x50 5 ++ charRun 0x56 5

/-- `A–Z a–z 0–9 + /` (40_descriptors.md R145). -/
def base64Chars : List Byte := upperChars ++ lowerChars ++ digitChars ++ [0x2B#8, 0x2F#8]

/-- `A–Z a–z 0–9 - _` (40_descriptors.md R146, R147). -/
def base64UrlChars : List Byte := upperChars ++ lowerChars ++ digitChars ++ [0x2D#8, 0x5F#8]

/-- A forward table as its 64-entry array: entries past the alphabet are free (30_encoding.md R98). -/
def encArray (chars : List Byte) : List Byte :=
  chars ++ (List.range (64 - chars.length)).map fun k => Config.encFiller (chars.length + k)

/-! Reverse tables, in rows of 16 as 40_descriptors.md R149 dumps them. -/

/-- `n` rows of invalid entries. -/
def invalidRows (n : Nat) : List Byte := List.replicate (16 * n) invalidEntry

/-- `dec` of `hex_upper` (40_descriptors.md R149). -/
def hexDec : List Byte :=
  invalidRows 3 ++
  [0x00, 0x01, 0x02, 0x03, 0x04, 0x05, 0x06, 0x07, 0x08, 0x09, 0xFF, 0xFF, 0xFF, 0xFF, 0xFF, 0xFF] ++
  [0xFF, 0x0A, 0x0B, 0x0C, 0x0D, 0x0E, 0x0F, 0xFF, 0xFF, 0xFF, 0xFF, 0xFF, 0xFF, 0xFF, 0xFF, 0xFF] ++
  invalidRows 1 ++
  [0xFF, 0x0A, 0x0B, 0x0C, 0x0D, 0x0E, 0x0F, 0xFF, 0xFF, 0xFF, 0xFF, 0xFF, 0xFF, 0xFF, 0xFF, 0xFF] ++
  invalidRows 9

/-- `dec` of `base32_rfc4648` (40_descriptors.md R149). -/
def base32Dec : List Byte :=
  invalidRows 3 ++
  [0xFF, 0xFF, 0x1A, 0x1B, 0x1C, 0x1D, 0x1E, 0x1F, 0xFF, 0xFF, 0xFF, 0xFF, 0xFF, 0xFF, 0xFF, 0xFF] ++
  [0xFF, 0x00, 0x01, 0x02, 0x03, 0x04, 0x05, 0x06, 0x07, 0x08, 0x09, 0x0A, 0x0B, 0x0C, 0x0D, 0x0E] ++
  [0x0F, 0x10, 0x11, 0x12, 0x13, 0x14, 0x15, 0x16, 0x17, 0x18, 0x19, 0xFF, 0xFF, 0xFF, 0xFF, 0xFF] ++
  [0xFF, 0x00, 0x01, 0x02, 0x03, 0x04, 0x05, 0x06, 0x07, 0x08, 0x09, 0x0A, 0x0B, 0x0C, 0x0D, 0x0E] ++
  [0x0F, 0x10, 0x11, 0x12, 0x13, 0x14, 0x15, 0x16, 0x17, 0x18, 0x19, 0xFF, 0xFF, 0xFF, 0xFF, 0xFF] ++
  invalidRows 8

/-- `dec` of `base32_hex` (40_descriptors.md R149). -/
def base32HexDec : List Byte :=
  invalidRows 3 ++
  [0x00, 0x01, 0x02, 0x03, 0x04, 0x05, 0x06, 0x07, 0x08, 0x09, 0xFF, 0xFF, 0xFF, 0xFF, 0xFF, 0xFF] ++
  [0xFF, 0x0A, 0x0B, 0x0C, 0x0D, 0x0E, 0x0F, 0x10, 0x11, 0x12, 0x13, 0x14, 0x15, 0x16, 0x17, 0x18] ++
  [0x19, 0x1A, 0x1B, 0x1C, 0x1D, 0x1E, 0x1F, 0xFF, 0xFF, 0xFF, 0xFF, 0xFF, 0xFF, 0xFF, 0xFF, 0xFF] ++
  [0xFF, 0x0A, 0x0B, 0x0C, 0x0D, 0x0E, 0x0F, 0x10, 0x11, 0x12, 0x13, 0x14, 0x15, 0x16, 0x17, 0x18] ++
  [0x19, 0x1A, 0x1B, 0x1C, 0x1D, 0x1E, 0x1F, 0xFF, 0xFF, 0xFF, 0xFF, 0xFF, 0xFF, 0xFF, 0xFF, 0xFF] ++
  invalidRows 8

/-- `dec` of `base32_crockford` (40_descriptors.md R149). -/
def crockfordDec : List Byte :=
  invalidRows 3 ++
  [0x00, 0x01, 0x02, 0x03, 0x04, 0x05, 0x06, 0x07, 0x08, 0x09, 0xFF, 0xFF, 0xFF, 0xFF, 0xFF, 0xFF] ++
  [0xFF, 0x0A, 0x0B, 0x0C, 0x0D, 0x0E, 0x0F, 0x10, 0x11, 0xFF, 0x12, 0x13, 0xFF, 0x14, 0x15, 0xFF] ++
  [0x16, 0x17, 0x18, 0x19, 0x1A, 0xFF, 0x1B, 0x1C, 0x1D, 0x1E, 0x1F, 0xFF, 0xFF, 0xFF, 0xFF, 0xFF] ++
  [0xFF, 0x0A, 0x0B, 0x0C, 0x0D, 0x0E, 0x0F, 0x10, 0x11, 0xFF, 0x12, 0x13, 0xFF, 0x14, 0x15, 0xFF] ++
  [0x16, 0x17, 0x18, 0x19, 0x1A, 0xFF, 0x1B, 0x1C, 0x1D, 0x1E, 0x1F, 0xFF, 0xFF, 0xFF, 0xFF, 0xFF] ++
  invalidRows 8

/-- `dec` of `base64_rfc4648` (40_descriptors.md R149). -/
def base64Dec : List Byte :=
  invalidRows 2 ++
  [0xFF, 0xFF, 0xFF, 0xFF, 0xFF, 0xFF, 0xFF, 0xFF, 0xFF, 0xFF, 0xFF, 0x3E, 0xFF, 0xFF, 0xFF, 0x3F] ++
  [0x34, 0x35, 0x36, 0x37, 0x38, 0x39, 0x3A, 0x3B, 0x3C, 0x3D, 0xFF, 0xFF, 0xFF, 0xFF, 0xFF, 0xFF] ++
  [0xFF, 0x00, 0x01, 0x02, 0x03, 0x04, 0x05, 0x06, 0x07, 0x08, 0x09, 0x0A, 0x0B, 0x0C, 0x0D, 0x0E] ++
  [0x0F, 0x10, 0x11, 0x12, 0x13, 0x14, 0x15, 0x16, 0x17, 0x18, 0x19, 0xFF, 0xFF, 0xFF, 0xFF, 0xFF] ++
  [0xFF, 0x1A, 0x1B, 0x1C, 0x1D, 0x1E, 0x1F, 0x20, 0x21, 0x22, 0x23, 0x24, 0x25, 0x26, 0x27, 0x28] ++
  [0x29, 0x2A, 0x2B, 0x2C, 0x2D, 0x2E, 0x2F, 0x30, 0x31, 0x32, 0x33, 0xFF, 0xFF, 0xFF, 0xFF, 0xFF] ++
  invalidRows 8

/-- `dec` of `base64_url` (40_descriptors.md R149). -/
def base64UrlDec : List Byte :=
  invalidRows 2 ++
  [0xFF, 0xFF, 0xFF, 0xFF, 0xFF, 0xFF, 0xFF, 0xFF, 0xFF, 0xFF, 0xFF, 0xFF, 0xFF, 0x3E, 0xFF, 0xFF] ++
  [0x34, 0x35, 0x36, 0x37, 0x38, 0x39, 0x3A, 0x3B, 0x3C, 0x3D, 0xFF, 0xFF, 0xFF, 0xFF, 0xFF, 0xFF] ++
  [0xFF, 0x00, 0x01, 0x02, 0x03, 0x04, 0x05, 0x06, 0x07, 0x08, 0x09, 0x0A, 0x0B, 0x0C, 0x0D, 0x0E] ++
  [0x0F, 0x10, 0x11, 0x12, 0x13, 0x14, 0x15, 0x16, 0x17, 0x18, 0x19, 0xFF, 0xFF, 0xFF, 0xFF, 0x3F] ++
  [0xFF, 0x1A, 0x1B, 0x1C, 0x1D, 0x1E, 0x1F, 0x20, 0x21, 0x22, 0x23, 0x24, 0x25, 0x26, 0x27, 0x28] ++
  [0x29, 0x2A, 0x2B, 0x2C, 0x2D, 0x2E, 0x2F, 0x30, 0x31, 0x32, 0x33, 0xFF, 0xFF, 0xFF, 0xFF, 0xFF] ++
  invalidRows 8

/-- No character is ignored (40_descriptors.md R138). -/
def ignoreNone : List Bool := List.replicate 256 false

/-- Only `'-'`, 0x2D, is ignored (40_descriptors.md R138). -/
def ignoreDash : List Bool := List.replicate 0x2D false ++ [true] ++ List.replicate (255 - 0x2D) false

/-- The pad symbol of every descriptor that has one, `'='` (40_descriptors.md R137). -/
def equalsSign : Byte := 0x3D#8

/-- `ROM[0]`, `hex_upper` (40_descriptors.md R140). -/
def romHexUpper : Descriptor :=
  { bps := 4, bbc := 1, bsc := 2, padPolicy := .forbidden, hasPad := false, padSymbol := Config.noPadSymbol,
    enc := encArray hexUpperChars, dec := hexDec, ign := ignoreNone }

/-- `ROM[1]`, `hex_lower` (40_descriptors.md R141). -/
def romHexLower : Descriptor :=
  { bps := 4, bbc := 1, bsc := 2, padPolicy := .forbidden, hasPad := false, padSymbol := Config.noPadSymbol,
    enc := encArray hexLowerChars, dec := hexDec, ign := ignoreNone }

/-- `ROM[2]`, `base32_rfc4648` (40_descriptors.md R142). -/
def romBase32Rfc4648 : Descriptor :=
  { bps := 5, bbc := 5, bsc := 8, padPolicy := .required, hasPad := true, padSymbol := equalsSign,
    enc := encArray base32Chars, dec := base32Dec, ign := ignoreNone }

/-- `ROM[3]`, `base32_hex` (40_descriptors.md R143). -/
def romBase32Hex : Descriptor :=
  { bps := 5, bbc := 5, bsc := 8, padPolicy := .required, hasPad := true, padSymbol := equalsSign,
    enc := encArray base32HexChars, dec := base32HexDec, ign := ignoreNone }

/-- `ROM[4]`, `base32_crockford` (40_descriptors.md R144). -/
def romBase32Crockford : Descriptor :=
  { bps := 5, bbc := 5, bsc := 8, padPolicy := .forbidden, hasPad := false, padSymbol := Config.noPadSymbol,
    enc := encArray crockfordChars, dec := crockfordDec, ign := ignoreDash }

/-- `ROM[5]`, `base64_rfc4648` (40_descriptors.md R145). -/
def romBase64Rfc4648 : Descriptor :=
  { bps := 6, bbc := 3, bsc := 4, padPolicy := .required, hasPad := true, padSymbol := equalsSign,
    enc := encArray base64Chars, dec := base64Dec, ign := ignoreNone }

/-- `ROM[6]`, `base64_url` (40_descriptors.md R146). -/
def romBase64Url : Descriptor :=
  { bps := 6, bbc := 3, bsc := 4, padPolicy := .required, hasPad := true, padSymbol := equalsSign,
    enc := encArray base64UrlChars, dec := base64UrlDec, ign := ignoreNone }

/-- `ROM[7]`, `base64_url_unpadded` (40_descriptors.md R147). -/
def romBase64UrlUnpadded : Descriptor :=
  { bps := 6, bbc := 3, bsc := 4, padPolicy := .optional, hasPad := true, padSymbol := equalsSign,
    enc := encArray base64UrlChars, dec := base64UrlDec, ign := ignoreNone }

/-- The descriptor ROM, indexed by `CMD.var` (10_state.md R36). Nothing writes it. -/
def rom : Variant → Descriptor
  | .hexUpper => romHexUpper
  | .hexLower => romHexLower
  | .base32Rfc4648 => romBase32Rfc4648
  | .base32Hex => romBase32Hex
  | .base32Crockford => romBase32Crockford
  | .base64Rfc4648 => romBase64Rfc4648
  | .base64Url => romBase64Url
  | .base64UrlUnpadded => romBase64UrlUnpadded

/-! The table builder (40_descriptors.md R132), which in the hardware runs at design time
(70_reset_and_hazards.md R282). -/

/-- `upper(c)` (00_scope.md R8). -/
def upperOf (c : Byte) : Byte := if 0x61 ≤ c.toNat ∧ c.toNat ≤ 0x7A then c - 0x20#8 else c

/-- `lower(c)` (00_scope.md R8). -/
def lowerOf (c : Byte) : Byte := if 0x41 ≤ c.toNat ∧ c.toNat ≤ 0x5A then c + 0x20#8 else c

/-- The defining symbol string of each descriptor (40_descriptors.md R140 to R147). -/
def symbolString : Variant → List Byte
  | .hexUpper => hexUpperChars
  | .hexLower => hexLowerChars
  | .base32Rfc4648 => base32Chars
  | .base32Hex => base32HexChars
  | .base32Crockford => crockfordChars
  | .base64Rfc4648 => base64Chars
  | .base64Url | .base64UrlUnpadded => base64UrlChars

/-- Which descriptors are case-insensitive on decode (40_descriptors.md R133, R139). -/
def caseInsensitive : Variant → Bool
  | .hexUpper | .hexLower | .base32Rfc4648 | .base32Hex | .base32Crockford => true
  | .base64Rfc4648 | .base64Url | .base64UrlUnpadded => false

/-- Giving the characters of one symbol its value (40_descriptors.md R132, the body of the loop on `k`). -/
def buildEntry (insensitive : Bool) (dec : List Byte) (c : Byte) (k : Nat) : List Byte :=
  let v := BitVec.ofNat 8 k
  let dec := dec.set c.toNat v
  if insensitive then (dec.set (upperOf c).toNat v).set (lowerOf c).toNat v else dec

/-- The loop on `k` from value `k` on, over the symbols still to come (40_descriptors.md R132). -/
def buildFrom (insensitive : Bool) : (dec chars : List Byte) → (k : Nat) → List Byte
  | dec, [], _ => dec
  | dec, c :: chars, k => buildFrom insensitive (buildEntry insensitive dec c k) chars (k + 1)

/-- `build_dec` (40_descriptors.md R132). -/
def buildDec (chars : List Byte) (insensitive : Bool) : List Byte :=
  buildFrom insensitive (List.replicate 256 invalidEntry) chars 0

end Sys2Proof.Machine
end

