-- ==== Sys2Proof/Syntax.lean ====
section
/-! DEFINITION. The commands: one constructor per row of spec/opcode_table.json. A command has no operand
of its own; its operand is the LEN register (30_encoding.md R90, R94). -/

namespace Sys2Proof

/-- The 32 commands (30_encoding.md R93), in the order of the table. -/
inductive Instr where
  | eszHexu | eszHexl | eszB32 | eszB32h | eszB32c | eszB64 | eszB64u | eszB64un
  | dmsHexu | dmsHexl | dmsB32 | dmsB32h | dmsB32c | dmsB64 | dmsB64u | dmsB64un
  | encHexu | encHexl | encB32 | encB32h | encB32c | encB64 | encB64u | encB64un
  | decHexu | decHexl | decB32 | decB32h | decB32c | decB64 | decB64u | decB64un
  deriving DecidableEq, Repr

/-- The operation of a command (00_scope.md R2). -/
def Instr.op : Instr → Op
  | .eszHexu | .eszHexl | .eszB32 | .eszB32h | .eszB32c | .eszB64 | .eszB64u | .eszB64un => .esz
  | .dmsHexu | .dmsHexl | .dmsB32 | .dmsB32h | .dmsB32c | .dmsB64 | .dmsB64u | .dmsB64un => .dms
  | .encHexu | .encHexl | .encB32 | .encB32h | .encB32c | .encB64 | .encB64u | .encB64un => .enc
  | .decHexu | .decHexl | .decB32 | .decB32h | .decB32c | .decB64 | .decB64u | .decB64un => .dec

/-- The descriptor a command runs on (00_scope.md R2). -/
def Instr.variant : Instr → Variant
  | .eszHexu | .dmsHexu | .encHexu | .decHexu => .hexUpper
  | .eszHexl | .dmsHexl | .encHexl | .decHexl => .hexLower
  | .eszB32 | .dmsB32 | .encB32 | .decB32 => .base32Rfc4648
  | .eszB32h | .dmsB32h | .encB32h | .decB32h => .base32Hex
  | .eszB32c | .dmsB32c | .encB32c | .decB32c => .base32Crockford
  | .eszB64 | .dmsB64 | .encB64 | .decB64 => .base64Rfc4648
  | .eszB64u | .dmsB64u | .encB64u | .decB64u => .base64Url
  | .eszB64un | .dmsB64un | .encB64un | .decB64un => .base64UrlUnpadded

end Sys2Proof
end

