-- ==== Sys2Proof/WellFormed.lean ====
section
/-! DEFINITION. Well-formedness. A command word has no reserved code and no operand (30_encoding.md R94,
R108), so what can be ill-formed is the descriptor record a command runs on: its relations (R97 to R101)
and its reserved codes (R108; 93_implementation_defined.md U5: a model refuses a ROM that holds one). -/

namespace Sys2Proof.Machine

/-- `bps` is 4, 5 or 6 (30_encoding.md R97; 0 to 3 and 7 are reserved, R108). -/
def Descriptor.bpsLegal (D : Descriptor) : Bool :=
  D.bitsPerSymbol == 4 || D.bitsPerSymbol == 5 || D.bitsPerSymbol == 6

/-- `(bbc, bsc)` is the smallest pair with `bsc * bps = bbc * 8` (30_encoding.md R97, 40_descriptors.md R136). -/
def Descriptor.blockLegal (D : Descriptor) : Bool :=
  D.blockBytes * 8 == D.blockSymbols * D.bitsPerSymbol &&
  D.blockBytes == D.bitsPerSymbol / Nat.gcd D.bitsPerSymbol 8 &&
  D.blockSymbols == 8 / Nat.gcd D.bitsPerSymbol 8

/-- `pad_policy` is not the reserved code (30_encoding.md R96), and `has_pad = 0` exactly when it is
`forbidden` (R101 (a)). -/
def Descriptor.padLegal (D : Descriptor) : Bool :=
  D.padPolicy != .reserved && (D.hasPad != (D.padPolicy == .forbidden))

/-- The arrays have 64, 256 and 256 entries (30_encoding.md R98, R99, R100). -/
def Descriptor.sizesLegal (D : Descriptor) : Bool :=
  D.enc.length == 64 && D.dec.length == 256 && D.ign.length == 256

/-- Every `dec` entry is a symbol value or invalid, none reserved (30_encoding.md R99, R108). -/
def Descriptor.decLegal (D : Descriptor) : Bool :=
  D.dec.all fun v => v == invalidEntry || decide (v.toNat < 2 ^ D.bitsPerSymbol)

/-- The ignored, pad and data characters are disjoint (30_encoding.md R101 (b)), over the entries of `dec` and
`ign` in order. -/
def Descriptor.classesDisjoint (D : Descriptor) : Bool :=
  (D.dec.zip D.ign).zipIdx.all fun ec =>
    let isPad := D.hasPad && BitVec.ofNat 8 ec.2 == D.padSymbol
    let isData := ec.1.1 != invalidEntry
    !(ec.1.2 && isPad) && !(ec.1.2 && isData) && !(isPad && isData)

/-- `dec[enc[k]] = k` for every used `k`, and each used `enc` entry is an ASCII code (30_encoding.md R98,
R101 (c)). -/
def Descriptor.tablesAgree (D : Descriptor) : Bool :=
  (List.range (2 ^ D.bitsPerSymbol)).all fun k =>
    D.decAt (D.encAt k) == BitVec.ofNat 8 k && decide ((D.encAt k).toNat < 0x80)

/-- The record is one a ROM may hold. -/
def Descriptor.wf (D : Descriptor) : Bool :=
  D.bpsLegal && D.blockLegal && D.padLegal && D.sizesLegal && D.decLegal && D.classesDisjoint && D.tablesAgree

end Sys2Proof.Machine

namespace Sys2Proof

/-- A command is well-formed when the record it runs on is. -/
def Instr.wf (i : Instr) : Bool := (Machine.rom i.variant).wf

end Sys2Proof
end

