-- ==== Sys2Proof/Decode.lean ====
section
/-! DEFINITION. The command word: decoding from its two fields (30_encoding.md R90 to R93), then the
encoder, written from the spec's table of words. -/

namespace Sys2Proof

/-- The `op` field, `CMD[4:3]` (30_encoding.md R90, R91). All four codes are used. -/
def opField (w : BitVec 5) : Op :=
  match (w.extractLsb' 3 2).toNat with
  | 0 => .esz
  | 1 => .dms
  | 2 => .enc
  | _ => .dec

/-- The `var` field, `CMD[2:0]` (30_encoding.md R90, R92). All eight codes are used. -/
def varField (w : BitVec 5) : Variant :=
  match (w.extractLsb' 0 3).toNat with
  | 0 => .hexUpper
  | 1 => .hexLower
  | 2 => .base32Rfc4648
  | 3 => .base32Hex
  | 4 => .base32Crockford
  | 5 => .base64Rfc4648
  | 6 => .base64Url
  | _ => .base64UrlUnpadded

/-- The command of an operation on a descriptor (00_scope.md R2). -/
def commandOf : Op → Variant → Instr
  | .esz, .hexUpper => .eszHexu
  | .esz, .hexLower => .eszHexl
  | .esz, .base32Rfc4648 => .eszB32
  | .esz, .base32Hex => .eszB32h
  | .esz, .base32Crockford => .eszB32c
  | .esz, .base64Rfc4648 => .eszB64
  | .esz, .base64Url => .eszB64u
  | .esz, .base64UrlUnpadded => .eszB64un
  | .dms, .hexUpper => .dmsHexu
  | .dms, .hexLower => .dmsHexl
  | .dms, .base32Rfc4648 => .dmsB32
  | .dms, .base32Hex => .dmsB32h
  | .dms, .base32Crockford => .dmsB32c
  | .dms, .base64Rfc4648 => .dmsB64
  | .dms, .base64Url => .dmsB64u
  | .dms, .base64UrlUnpadded => .dmsB64un
  | .enc, .hexUpper => .encHexu
  | .enc, .hexLower => .encHexl
  | .enc, .base32Rfc4648 => .encB32
  | .enc, .base32Hex => .encB32h
  | .enc, .base32Crockford => .encB32c
  | .enc, .base64Rfc4648 => .encB64
  | .enc, .base64Url => .encB64u
  | .enc, .base64UrlUnpadded => .encB64un
  | .dec, .hexUpper => .decHexu
  | .dec, .hexLower => .decHexl
  | .dec, .base32Rfc4648 => .decB32
  | .dec, .base32Hex => .decB32h
  | .dec, .base32Crockford => .decB32c
  | .dec, .base64Rfc4648 => .decB64
  | .dec, .base64Url => .decB64u
  | .dec, .base64UrlUnpadded => .decB64un

/-- Decoding a value of the CMD register. Total, and nothing is rejected: all 32 words are commands
(30_encoding.md R93, R108). -/
def decodeCmd (w : BitVec 5) : Instr := commandOf (opField w) (varField w)

/-- Why bytes are no command. -/
inductive DecodeError where
  /-- there is no byte to read a command word from -/
  | noWord
  /-- the byte has a bit set above bit 4: a command word has five bits (30_encoding.md R90) -/
  | widerThanFiveBits
  deriving DecidableEq, Repr

/-- Decoding from bytes, for whoever holds a command word in a byte. The word has five bits
(30_encoding.md R90); DESIGN CHOICE (log 13): a byte that is not one zero-extended word is rejected. -/
def decode : List Byte → Except DecodeError (Instr × List Byte)
  | [] => .error .noWord
  | b :: rest =>
    if b.toNat < 32 then .ok (decodeCmd (b.setWidth 5), rest) else .error .widerThanFiveBits

/-- The word of each command, from the table of 30_encoding.md R93. -/
def encodeCmd : Instr → BitVec 5
  | .eszHexu => 0x00#5
  | .eszHexl => 0x01#5
  | .eszB32 => 0x02#5
  | .eszB32h => 0x03#5
  | .eszB32c => 0x04#5
  | .eszB64 => 0x05#5
  | .eszB64u => 0x06#5
  | .eszB64un => 0x07#5
  | .dmsHexu => 0x08#5
  | .dmsHexl => 0x09#5
  | .dmsB32 => 0x0A#5
  | .dmsB32h => 0x0B#5
  | .dmsB32c => 0x0C#5
  | .dmsB64 => 0x0D#5
  | .dmsB64u => 0x0E#5
  | .dmsB64un => 0x0F#5
  | .encHexu => 0x10#5
  | .encHexl => 0x11#5
  | .encB32 => 0x12#5
  | .encB32h => 0x13#5
  | .encB32c => 0x14#5
  | .encB64 => 0x15#5
  | .encB64u => 0x16#5
  | .encB64un => 0x17#5
  | .decHexu => 0x18#5
  | .decHexl => 0x19#5
  | .decB32 => 0x1A#5
  | .decB32h => 0x1B#5
  | .decB32c => 0x1C#5
  | .decB64 => 0x1D#5
  | .decB64u => 0x1E#5
  | .decB64un => 0x1F#5

/-- The word of a command as one byte, zero-extended. -/
def encode (i : Instr) : List Byte := [(encodeCmd i).setWidth 8]

/-- The bytes of a number, `n` of them, the least significant first. -/
def bytesOf : (n w : Nat) → List Byte
  | 0, _ => []
  | n + 1, w => BitVec.ofNat 8 w :: bytesOf n (w / 256)

/-- The command whose bits, numbered as spec/opcode_table.json numbers them, are the low `nbits` bits of
`w`: laid out as bytes and given to `decode`; anything after the one byte of a command must be zero. -/
def decodeTableWord (nbits w : Nat) : Option Instr :=
  match decode (bytesOf (max 1 ((nbits + 7) / 8)) (w % 2 ^ nbits)) with
  | .ok (i, rest) => if rest.all (· == 0#8) then some i else none
  | .error _ => none

end Sys2Proof
end

