-- ==== Sys2Proof/Machine/State.lean ====
section
/-! DEFINITION. The state of one BNC instance (10_state.md R20) as plain data, its value at reset (R40),
and the reasons a step can stop. -/

namespace Sys2Proof.Machine

/-- The host's memory of units, by place: pairs in strictly rising order. A place that is not listed holds no
value known to the model; reading it gives a free value (log 4). -/
abbrev Memory := List Host.Cell

/-- The canonical form: places strictly rise. -/
abbrev Memory.wf (m : Memory) : Prop := m.Pairwise fun a b => a.1 < b.1

/-- `PHASE` (10_state.md R33). -/
inductive Phase where
  | idle | scan | check | emit
  deriving DecidableEq, Repr

/-- The source's `Error` value (30_encoding.md R95, 60_exceptions.md R250). -/
inductive Err where
  | none | symbolError | invalidInputLengthError | paddingError
  deriving DecidableEq, Repr

/-- What the host or the platform may do to the BNC. DESIGN CHOICE (log 2): the actions to come are a list
in State. -/
inductive HostAction where
  /-- write the CMD register: starts a call when idle (70_reset_and_hazards.md R284) -/
  | writeCmd (w : BitVec 5)
  /-- write the LEN register, which takes the low LEN_W bits of `n` (10_state.md R22; log 20) -/
  | writeLen (n : Nat)
  /-- write one unit of IN (10_state.md R25) -/
  | writeIn (i : Nat) (v : Byte)
  /-- read one unit of IN (10_state.md R25) -/
  | readIn (i : Nat)
  /-- write one unit of OUT (10_state.md R25) -/
  | writeOut (j : Nat) (v : Byte)
  /-- read one unit of OUT (10_state.md R25) -/
  | readOut (j : Nat)
  /-- make `n` units of OUT writable: the source's `reserve` (20_memory.md R64, R66) -/
  | reserve (n : Nat)
  /-- lay IN and OUT over the host's memory: unit 0 of each at the given place, nothing of OUT writable yet.
  The two may share units (20_memory.md R69; 95_test_vectors.md P3) -/
  | attach (inAt outAt : Nat)
  /-- read STATUS (20_memory.md R73) -/
  | readStatus
  /-- read RLEN (20_memory.md R73) -/
  | readRlen
  /-- read CMD (20_memory.md R73) -/
  | readCmd
  /-- read LEN (20_memory.md R73) -/
  | readLen
  /-- read STATUS until `done = 1` (30_encoding.md R110) -/
  | waitDone
  /-- the host's branch at the end of `decode` (30_encoding.md R111): read `OUT[0 .. n-1]` next, if its last
  two reads gave a STATUS with `err = none` and then `n` from RLEN; else read nothing -/
  | returnUnits
  /-- the platform's reset event (70_reset_and_hazards.md R280) -/
  | reset
  deriving DecidableEq, Repr

/-- What one host read returned. -/
inductive Reading where
  | cmd (w : BitVec 5)
  | len (n : Nat)
  | status (v : BitVec 4)
  | rlen (n : Nat)
  | inUnit (i : Nat) (v : Byte)
  | outUnit (j : Nat) (v : Byte)
  deriving DecidableEq, Repr

/-- The state (10_state.md R20): the host-visible registers, the working registers, the memory the two buffers
lie in; then the host's premises on a call (log 5, log 6) and the model's own fields (log 2, log 7). A
register of LEN_W bits is a natural number (00_scope.md R7) that the invariant keeps below `2^LEN_W`. -/
structure State where
  /-- `CMD` (10_state.md R21) -/
  cmd : BitVec 5
  /-- `LEN` (R22) -/
  len : Nat
  /-- `STATUS` (R23) -/
  status : BitVec 4
  /-- `RLEN` (R24) -/
  rlen : Nat
  /-- `PHASE` (R33) -/
  phase : Phase
  /-- `IDX` (R34) -/
  idx : Nat
  /-- `GRP` (R27) -/
  grp : BitVec 40
  /-- `GRP_N` (R27) -/
  grpN : BitVec 3
  /-- `ACC` (R28) -/
  acc : BitVec 13
  /-- `ACC_BITS` (R28) -/
  accBits : BitVec 4
  /-- `DATA_COUNT` (R29) -/
  dataCount : Nat
  /-- `PAD_COUNT` (R29) -/
  padCount : Nat
  /-- `PAD_SEEN` (R30) -/
  padSeen : Bool
  /-- `DATA_AFTER_PAD` (R30) -/
  dataAfterPad : Bool
  /-- the host's memory, of which `IN` (20_memory.md R61) and `OUT` (R62) are two stretches (10_state.md R37;
  log 6) -/
  mem : Memory
  /-- the place of `IN[0]` (log 6) -/
  inAt : Nat
  /-- the place of `OUT[0]` (log 6) -/
  outAt : Nat
  /-- how many units of OUT the host has made writable (20_memory.md R66; log 5) -/
  outCap : Nat
  /-- the host actions still to come (log 2) -/
  pending : List HostAction
  /-- what the host's reads returned, newest first (log 2) -/
  readings : List Reading
  /-- how many times free values have been drawn (log 7) -/
  draws : Nat
  deriving DecidableEq, Repr

/-- The machine right after reset (10_state.md R40, 70_reset_and_hazards.md R280). IN and OUT are
unspecified there: nothing is listed. The fields after `mem` are the model's choice (logs 2, 5, 6, 7). -/
def State.reset : State :=
  { cmd := 0, len := 0, status := 0, rlen := 0, phase := .idle, idx := 0, grp := 0, grpN := 0, acc := 0,
    accBits := 0, dataCount := 0, padCount := 0, padSeen := false, dataAfterPad := false,
    mem := [], inAt := 0, outAt := 0x100000000, outCap := 0, pending := [], readings := [], draws := 0 }

/-- Why the machine faults: never. The BNC has no trap, no fault and no stuck state
(93_implementation_defined.md, end of part 1; log 12), so the type has no constructor. -/
inductive Fault where
  deriving DecidableEq, Repr

/-- Why a step has no meaning. Each is a situation the spec itself asks a model to refuse, and stopping
there is safe. -/
inductive Refusal where
  /-- raised by an arm of `exec` with no meaning yet: safe; no arm raises it -/
  | notModelled (mnemonic : String)
  /-- raised at the start of ESZ or ENC, and by their meanings, when `encoded_size` does not fit LEN_W bits
  (41_size.md R178, 93_implementation_defined.md U8): safe -/
  | lengthRange
  /-- raised at the start of ENC or DEC, and by their meanings, when OUT has fewer writable units than the
  size function's value (20_memory.md R66, U7): safe -/
  | sinkTooSmall
  /-- raised at the start of ENC or DEC, and by their meanings, when IN and the write frame overlap
  (20_memory.md R69, U7): safe -/
  | buffersOverlap
  /-- raised by a host write of CMD or LEN while busy (70_reset_and_hazards.md R290, U7): safe -/
  | registerWriteWhileBusy
  /-- raised by a host access to IN or OUT while busy (70_reset_and_hazards.md R290, U7): safe -/
  | bufferAccessWhileBusy
  deriving DecidableEq, Repr

end Sys2Proof.Machine
end

