-- ==== Sys2Proof/Machine/Flags.lean ====
section
/-! DEFINITION. The flags: the three fields of STATUS (10_state.md R23, 30_encoding.md R95) and the two
flags of the scan (10_state.md R30). The BNC has no other flag (R31). -/

namespace Sys2Proof.Machine

/-- The code of an error (30_encoding.md R95). -/
def Err.code : Err → BitVec 2
  | .none => 0b00#2
  | .symbolError => 0b01#2
  | .invalidInputLengthError => 0b10#2
  | .paddingError => 0b11#2

/-- The error of a code (30_encoding.md R95). All four codes are used. -/
def Err.ofCode (c : BitVec 2) : Err :=
  match c.toNat with
  | 0 => .none
  | 1 => .symbolError
  | 2 => .invalidInputLengthError
  | _ => .paddingError

/-- `STATUS[0]`, `busy` (10_state.md R23). -/
def State.busy (s : State) : Bool := s.status.getLsbD 0

/-- `STATUS[1]`, `done` (10_state.md R23). -/
def State.done (s : State) : Bool := s.status.getLsbD 1

/-- The `err` field of a value of STATUS, bits 3:2 (10_state.md R23). -/
def errField (v : BitVec 4) : Err := Err.ofCode (v.extractLsb' 2 2)

/-- `STATUS[3:2]`, `err` (10_state.md R23). -/
def State.err (s : State) : Err := errField s.status

/-- The value of STATUS with the given fields (10_state.md R23). -/
def statusWord (e : Err) (done busy : Bool) : BitVec 4 :=
  e.code ++ BitVec.ofBool done ++ BitVec.ofBool busy

/-- STATUS from the start of a call (70_reset_and_hazards.md R284). -/
def statusBusy : BitVec 4 := statusWord .none false true

/-- STATUS from the end of a call (60_exceptions.md R254). -/
def statusDone (e : Err) : BitVec 4 := statusWord e true false

/-- `PAD_SEEN` and `PAD_COUNT` after the scan has met a pad symbol (43_decode.md R214). -/
def State.countPad (s : State) : State := { s with padCount := s.padCount + 1, padSeen := true }

/-- `DATA_AFTER_PAD` and `DATA_COUNT` after the scan has met a data character (43_decode.md R214). -/
def State.countData (s : State) : State :=
  { s with dataCount := s.dataCount + 1, dataAfterPad := s.dataAfterPad || s.padSeen }

end Sys2Proof.Machine
end

