-- ==== Sys2Proof/Machine/Size.lean ====
section
/-! DEFINITION. The size calculators and the functions over the remainder table (41_size.md). All
arithmetic is exact, on natural numbers (R177). -/

namespace Sys2Proof.Machine

/-- Whether a number fits `width` bits, by halving. -/
def fitsBits : (width n : Nat) → Bool
  | 0, n => n == 0
  | w + 1, n => decide (n < 2) || fitsBits w (n / 2)

/-- Whether a number fits the LEN_W bits of a length register (41_size.md R178). -/
def fitsLen (n : Nat) : Bool := fitsBits Config.lenW n

/-- The low LEN_W bits of a number (10_state.md R22). -/
def lenOf (n : Nat) : Nat := if fitsLen n then n else n % 2 ^ Config.lenW

/-- `ceil(a / b)` as 41_size.md R177 computes it. -/
def ceilDiv (a b : Nat) : Nat := (a + b - 1) / b

/-- `data_symbols(D, r)` (41_size.md R171). -/
def dataSymbols (D : Descriptor) (r : Nat) : Nat := ceilDiv (8 * r) D.bitsPerSymbol

/-- `valid_rem(D, m)` (41_size.md R172): `m` is in the remainder table. -/
def validRem (D : Descriptor) (m : Nat) : Bool :=
  (List.range D.blockBytes).any fun r => dataSymbols D r == m

/-- `partial_bytes(D, m)` (41_size.md R173): 0 for an invalid remainder. -/
def partialBytes (D : Descriptor) (m : Nat) : Nat :=
  ((List.range D.blockBytes).find? fun r => dataSymbols D r == m).getD 0

/-- `expected_pad(D, m)` (41_size.md R173). -/
def expectedPad (D : Descriptor) (m : Nat) : Nat := if m = 0 then 0 else D.blockSymbols - m

/-- The padded size class (41_size.md R176): policy `required` alone. -/
def Descriptor.padded (D : Descriptor) : Bool := D.padPolicy == .required

/-- `encoded_size(D, n)` (41_size.md R174). -/
def encodedSize (D : Descriptor) (n : Nat) : Nat :=
  if D.padded then
    n / D.blockBytes * D.blockSymbols + (if n % D.blockBytes = 0 then 0 else D.blockSymbols)
  else
    ceilDiv (8 * n) D.bitsPerSymbol

/-- `decoded_max_size(D, n)` (41_size.md R175). -/
def decodedMaxSize (D : Descriptor) (n : Nat) : Nat :=
  if D.padded then
    n / D.blockSymbols * D.blockBytes + partialBytes D (n % D.blockSymbols)
  else
    n * D.bitsPerSymbol / 8

end Sys2Proof.Machine
end

