-- ==== Sys2Proof/Machine/Ops.lean ====
section
/-! DEFINITION. The operations over memory and registers: reading and writing units, the start of a call,
its two ends (`finish` and `raise`, which stand where another machine takes an exception: 60_exceptions.md
R254, R261), the premises on a call, and the reset event. -/

namespace Sys2Proof.Machine

/-! Memory. -/

/-- The unit listed at an index. -/
def Memory.read : Memory → Nat → Option Byte
  | [], _ => none
  | (a, v) :: m, k => if k = a then some v else Memory.read m k

/-- Writing the unit at an index. -/
def Memory.write : Memory → Nat → Byte → Memory
  | [], k, v => [(k, v)]
  | (a, u) :: m, k, v =>
    if k < a then (k, v) :: (a, u) :: m
    else if k = a then (k, v) :: m
    else (a, u) :: Memory.write m k v

/-- The unit at a place of the host's memory. Where nothing has been written it is a free value. -/
def State.unitAt (s : State) (a : Nat) : Byte := (s.mem.read a).getD (Config.unplaced a)

/-- Writing the unit at a place. -/
def State.store (s : State) (a : Nat) (v : Byte) : State := { s with mem := s.mem.write a v }

/-- `MemRead(IN, i, 1)` (00_scope.md R9, 20_memory.md R63). -/
def State.inUnit (s : State) (i : Nat) : Byte := s.unitAt (s.inAt + i)

/-- The unit of OUT at an index, as a host reads it. The engine never reads OUT (20_memory.md R62). -/
def State.outUnit (s : State) (j : Nat) : Byte := s.unitAt (s.outAt + j)

/-- `append(v)` (00_scope.md R9): write at RLEN, then advance RLEN. -/
def State.append (s : State) (v : Byte) : State := { s.store (s.outAt + s.rlen) v with rlen := s.rlen + 1 }

/-- Appending units in order. -/
def State.appendAll (s : State) (vs : List Byte) : State := vs.foldl State.append s

/-- Every unit of OUT below `n` gets an unspecified value (43_decode.md R226). -/
def State.scrambleFrame (s : State) : (n : Nat) → State
  | 0 => s
  | n + 1 =>
    (s.scrambleFrame n).store (s.outAt + n) (Config.frameUnit s.draws n)

/-! The call. -/

/-- The working registers and RLEN at the start of a call (10_state.md R35). -/
def State.startValues (s : State) : State :=
  { s with rlen := 0, idx := 0, grp := 0, grpN := 0, acc := 0, accBits := 0, dataCount := 0, padCount := 0,
           padSeen := false, dataAfterPad := false }

/-- The start values, in a phase (10_state.md R33, R35). -/
def State.startPhase (s : State) (p : Phase) : State := { s.startValues with phase := p }

/-- The start values, with a size in RLEN: what `ESZ` and `DMS` do (41_size.md R174, R175). -/
def State.answer (s : State) (n : Nat) : State := { s.startValues with rlen := n }

/-- The phase a call starts in, the first of its sequence (10_state.md R33). -/
def firstPhase : Op → Phase
  | .esz | .dms => .check
  | .enc => .emit
  | .dec => .scan

/-- Call start (70_reset_and_hazards.md R284), one indivisible step. -/
def State.startCall (s : State) (w : BitVec 5) : State :=
  { s.startValues with cmd := w, status := statusBusy, phase := firstPhase (decodeCmd w).op }

/-- A free value of LEN_W bits for working register number `slot`. -/
def leftoverLen (slot draw : Nat) : Nat := (Config.leftover Config.lenW slot draw).toNat

/-- The end of a call (60_exceptions.md R254, 10_state.md R35): STATUS reports, PHASE is IDLE, the other
working registers hold unspecified values. -/
def State.endCall (s : State) (e : Err) : State :=
  { s with status := statusDone e, phase := .idle,
           idx := leftoverLen 0 s.draws, grp := Config.leftover _ 1 s.draws,
           grpN := Config.leftover _ 2 s.draws, acc := Config.leftover _ 3 s.draws,
           accBits := Config.leftover _ 4 s.draws, dataCount := leftoverLen 5 s.draws,
           padCount := leftoverLen 6 s.draws,
           padSeen := (Config.leftover 1 7 s.draws).getLsbD 0,
           dataAfterPad := (Config.leftover 1 8 s.draws).getLsbD 0,
           draws := s.draws + 1 }

/-- `finish` (00_scope.md R9). -/
def State.finish (s : State) : State := s.endCall .none

/-- RLEN where it is unspecified up to a bound (93_implementation_defined.md U2). -/
def rlenUpTo (bound draw : Nat) : Nat := (Config.freeRlen draw).toNat % (bound + 1)

/-- `raise e` of a decode whose write frame has `frame` units (60_exceptions.md R254): STATUS reports the
error; RLEN and the write frame are unspecified (43_decode.md R226). No state is saved, CMD and LEN keep
their values. -/
def State.raise (s : State) (e : Err) (frame : Nat) : State :=
  { (s.scrambleFrame frame).endCall e with rlen := rlenUpTo frame s.draws }

/-! The premises on a call. -/

/-- Whether a unit is both in `IN[0 .. LEN-1]` and among the first `frame` units of OUT (20_memory.md R69): the
two stretches of memory meet. -/
def State.overlapsFrame (s : State) (frame : Nat) : Bool :=
  decide (max s.inAt s.outAt < min (s.inAt + s.len) (s.outAt + frame))

/-- The premises of ENC and DEC on the sink of a call that writes up to `frame` units (20_memory.md R66,
R69; 70_reset_and_hazards.md R291). -/
def State.sinkRefusal (s : State) (frame : Nat) : Option Refusal :=
  if s.outCap < frame then some .sinkTooSmall
  else if s.overlapsFrame frame then some .buffersOverlap
  else none

/-- The premise of ESZ and ENC on the width of lengths (41_size.md R178; 70_reset_and_hazards.md R292). -/
def State.widthRefusal (s : State) (D : Descriptor) : Option Refusal :=
  if fitsLen (encodedSize D s.len) then none else some .lengthRange

/-- Why a call of an operation on a descriptor is refused, if it is (70_reset_and_hazards.md R294: there
is no other reason). -/
def State.callRefusal (s : State) (op : Op) (D : Descriptor) : Option Refusal :=
  match op with
  | .esz => s.widthRefusal D
  | .dms => none
  | .enc => (s.widthRefusal D).or (s.sinkRefusal (encodedSize D s.len))
  | .dec => s.sinkRefusal (decodedMaxSize D s.len)

/-- How many units the write frame of a call has at most (20_memory.md R67). -/
def State.frameSize (s : State) (op : Op) (D : Descriptor) : Nat :=
  match op with
  | .esz | .dms => 0
  | .enc => encodedSize D s.len
  | .dec => decodedMaxSize D s.len

/-! Reset. -/

/-- The reset event on the registers (70_reset_and_hazards.md R280): IN, OUT and the host's own state are
not touched. -/
def State.resetRegisters (s : State) : State :=
  { s.startValues with cmd := 0, len := 0, status := 0, phase := .idle }

/-- Reset during a call (70_reset_and_hazards.md R281): the write frame of the abandoned call is
unspecified. -/
def State.abandonCall (s : State) : State :=
  let i := decodeCmd s.cmd
  { (s.scrambleFrame (s.frameSize i.op (rom i.variant))).resetRegisters with draws := s.draws + 1 }

end Sys2Proof.Machine
end

