-- ==== Sys2Proof/Machine/Operands.lean ====
section
/-! DEFINITION. The operand forms of 44_sequencing_and_access.md R243: the operand LEN, input reads,
output appends (Ops.lean), table reads (Rom.lean), and what the engine makes of an operand: the class of a
character (43_decode.md R212), the group of an encode and its fields (42_encode.md R192 to R194), the
absorption of a symbol value (43_decode.md R223). -/

namespace Sys2Proof.Machine

/-- The operand `n` of every command: LEN, unsigned, as it stands (30_encoding.md R94). -/
def State.operand (s : State) : Nat := s.len

/-- The class of an input unit (43_decode.md R211). -/
inductive CharClass where
  | ignored | pad | data (v : Byte) | invalid
  deriving DecidableEq, Repr

/-- `classify(D, c)` (43_decode.md R212), in the order of its tests. -/
def classify (D : Descriptor) (c : Byte) : CharClass :=
  if D.ignAt c then .ignored
  else if D.hasPad && c == D.padSymbol then .pad
  else if D.decAt c != invalidEntry then .data (D.decAt c)
  else .invalid

/-- The class of the unit at IDX: operand form (a) of R243. -/
def State.classAtIdx (D : Descriptor) (s : State) : CharClass := classify D (s.inUnit s.idx)

/-- Bytes placed in `GRP` from the top, the first in `GRP[39:32]`; bytes the group does not have are zero
(10_state.md R27). -/
def topAligned (bytes : List Byte) : BitVec 40 :=
  bytes.zipIdx.foldl (fun g bj => g ||| (bj.1.setWidth 40).shiftLeft (32 - 8 * bj.2)) 0#40

/-- Field `S_k` of `GRP` (30_encoding.md R102, with the group in the top of GRP, 10_state.md R27). -/
def groupField (D : Descriptor) (grp : BitVec 40) (k : Nat) : Nat :=
  (grp.extractLsb' (40 - (k + 1) * D.bitsPerSymbol) D.bitsPerSymbol).toNat

/-- The units appended for the group in `GRP` of `r` bytes: its data symbols (42_encode.md R192, R193,
R196), then the pad symbols of a partial group when the policy is `required` (R194, R195). -/
def groupSymbols (D : Descriptor) (grp : BitVec 40) (r : Nat) : List Byte :=
  (List.range (dataSymbols D r)).map (fun k => D.encAt (groupField D grp k)) ++
    (if r < D.blockBytes ∧ D.padded then
      List.replicate (D.blockSymbols - dataSymbols D r) D.padSymbol
    else [])

/-- Absorbing a symbol value (43_decode.md R223): the new ACC and ACC_BITS and the byte emitted, if any. -/
def absorbValue (D : Descriptor) (v : Byte) (acc : BitVec 13) (accBits : BitVec 4) :
    BitVec 13 × BitVec 4 × Option Byte :=
  let wide := (acc <<< D.bitsPerSymbol) ||| v.setWidth 13
  let n := accBits.toNat + D.bitsPerSymbol
  if 8 ≤ n then
    ((wide.extractLsb' 0 (n - 8)).setWidth 13, BitVec.ofNat 4 (n - 8), some (wide.extractLsb' (n - 8) 8))
  else
    (wide, BitVec.ofNat 4 n, none)

end Sys2Proof.Machine
end

