-- ==== Sys2Proof/Machine/Dec.lean ====
section
/-! DEFINITION. `DEC`, the bit-parsing decoder (43_decode.md R210 to R229). -/

namespace Sys2Proof.Machine

/-- Moving IDX past one unit (10_state.md R34). -/
def State.nextUnit (s : State) : State := { s with idx := s.idx + 1 }

/-- Step 1 on the unit at IDX (43_decode.md R214); `none` when it is invalid (R215). -/
def scanUnit (D : Descriptor) (s : State) : Option State :=
  match s.classAtIdx D with
  | .ignored => some s.nextUnit
  | .pad => some s.countPad.nextUnit
  | .data _ => some s.countData.nextUnit
  | .invalid => none

/-- Step 1 (43_decode.md R213), `fuel` units at most; LEN units are always enough. `none` when an invalid
character ends the scan. -/
def scanUnits (D : Descriptor) : (fuel : Nat) → State → Option State
  | 0, s => some s
  | fuel + 1, s =>
    if s.idx < s.operand then (scanUnit D s).bind (scanUnits D fuel) else some s

/-- Whether step 3 validates the padded form (43_decode.md R217, R219, R220). -/
def paddedForm (D : Descriptor) (padCount : Nat) : Bool :=
  D.padPolicy == .required || (D.padPolicy == .optional && decide (0 < padCount))

/-- Steps 2 and 3 on the counters and the flag (43_decode.md R216 to R220): the error raised, or `none`. -/
def checkCounts (D : Descriptor) (dataAfterPad : Bool) (dataCount padCount : Nat) : Err :=
  let m := dataCount % D.blockSymbols
  if dataAfterPad then .symbolError
  else if paddedForm D padCount ∧ (dataCount + padCount) % D.blockSymbols ≠ 0 then .paddingError
  else if ¬ validRem D m then .invalidInputLengthError
  else if paddedForm D padCount ∧ padCount ≠ expectedPad D m then .paddingError
  else .none

/-- Steps 2 and 3 (43_decode.md R216 to R220). -/
def State.checkErr (D : Descriptor) (s : State) : Err :=
  checkCounts D s.dataAfterPad s.dataCount s.padCount

/-- Step 4 on a data character of value `v` (43_decode.md R223). -/
def State.absorb (D : Descriptor) (s : State) (v : Byte) : State :=
  let r := absorbValue D v s.acc s.accBits
  let t := match r.2.2 with
    | some b => s.append b
    | none => s
  { t with acc := r.1, accBits := r.2.1 }

/-- Step 4 on the unit at IDX (43_decode.md R222): only data characters count. -/
def emitUnit (D : Descriptor) (s : State) : State :=
  match s.classAtIdx D with
  | .data v => (s.absorb D v).nextUnit
  | _ => s.nextUnit

/-- Step 4 (43_decode.md R222), `fuel` units at most; LEN units are always enough. The leftover bits are
discarded unread (R224, R225). -/
def emitUnits (D : Descriptor) : (fuel : Nat) → State → State
  | 0, s => s
  | fuel + 1, s => if s.idx < s.operand then emitUnits D fuel (emitUnit D s) else s

/-- The start of step 4 (43_decode.md R222). Steps 2 and 3, between, are the phase CHECK: no working register
moves in it and nothing is written. -/
def State.beginEmit (s : State) : State :=
  { s with phase := .emit, idx := 0, acc := 0, accBits := 0, rlen := 0 }

/-- The body of `DEC` (43_decode.md R229): the scan, the checks, the emission, or the first `raise`. -/
def decCall (D : Descriptor) (s : State) : Host.Outcome State Fault Refusal :=
  match s.callRefusal .dec D with
  | some r => .refused r
  | none =>
    let frame := decodedMaxSize D s.operand
    match scanUnits D s.operand (s.startPhase .scan) with
    | none => .next (s.raise .symbolError frame)
    | some t =>
      match t.checkErr D with
      | .none => .next (emitUnits D s.operand t.beginEmit).finish
      | e => .next (t.raise e frame)

/-- `DEC.HEXU` (43_decode.md R210). -/
def execDecHexu (s : State) : Host.Outcome State Fault Refusal := decCall (rom .hexUpper) s

/-- `DEC.HEXL` (43_decode.md R210). -/
def execDecHexl (s : State) : Host.Outcome State Fault Refusal := decCall (rom .hexLower) s

/-- `DEC.B32` (43_decode.md R210). -/
def execDecB32 (s : State) : Host.Outcome State Fault Refusal := decCall (rom .base32Rfc4648) s

/-- `DEC.B32H` (43_decode.md R210). -/
def execDecB32h (s : State) : Host.Outcome State Fault Refusal := decCall (rom .base32Hex) s

/-- `DEC.B32C` (43_decode.md R210). -/
def execDecB32c (s : State) : Host.Outcome State Fault Refusal := decCall (rom .base32Crockford) s

/-- `DEC.B64` (43_decode.md R210). -/
def execDecB64 (s : State) : Host.Outcome State Fault Refusal := decCall (rom .base64Rfc4648) s

/-- `DEC.B64U` (43_decode.md R210). -/
def execDecB64u (s : State) : Host.Outcome State Fault Refusal := decCall (rom .base64Url) s

/-- `DEC.B64UN` (43_decode.md R210). -/
def execDecB64un (s : State) : Host.Outcome State Fault Refusal := decCall (rom .base64UrlUnpadded) s

end Sys2Proof.Machine
end

