-- ==== Sys2Proof/Machine/Dms.lean ====
section
/-! DEFINITION. `DMS`, decoded_max_size (41_size.md R175). -/

namespace Sys2Proof.Machine

/-- The body of `DMS` (41_size.md R175): RLEN gets the bound; no buffer is touched (R170). It always fits
(R178). -/
def dmsCall (D : Descriptor) (s : State) : Host.Outcome State Fault Refusal :=
  .next (s.answer (decodedMaxSize D s.operand)).finish

/-- `DMS.HEXU` (41_size.md R175). -/
def execDmsHexu (s : State) : Host.Outcome State Fault Refusal := dmsCall (rom .hexUpper) s

/-- `DMS.HEXL` (41_size.md R175). -/
def execDmsHexl (s : State) : Host.Outcome State Fault Refusal := dmsCall (rom .hexLower) s

/-- `DMS.B32` (41_size.md R175). -/
def execDmsB32 (s : State) : Host.Outcome State Fault Refusal := dmsCall (rom .base32Rfc4648) s

/-- `DMS.B32H` (41_size.md R175). -/
def execDmsB32h (s : State) : Host.Outcome State Fault Refusal := dmsCall (rom .base32Hex) s

/-- `DMS.B32C` (41_size.md R175). -/
def execDmsB32c (s : State) : Host.Outcome State Fault Refusal := dmsCall (rom .base32Crockford) s

/-- `DMS.B64` (41_size.md R175). -/
def execDmsB64 (s : State) : Host.Outcome State Fault Refusal := dmsCall (rom .base64Rfc4648) s

/-- `DMS.B64U` (41_size.md R175). -/
def execDmsB64u (s : State) : Host.Outcome State Fault Refusal := dmsCall (rom .base64Url) s

/-- `DMS.B64UN` (41_size.md R175). -/
def execDmsB64un (s : State) : Host.Outcome State Fault Refusal := dmsCall (rom .base64UrlUnpadded) s

end Sys2Proof.Machine
end

