-- ==== Sys2Proof/Machine/Enc.lean ====
section
/-! DEFINITION. `ENC`, the bit-packing encoder (42_encode.md R190 to R197). -/

namespace Sys2Proof.Machine

/-- How many bytes the group at IDX has (42_encode.md R191, R197). -/
def groupLength (D : Descriptor) (s : State) : Nat := min D.blockBytes (s.operand - s.idx)

/-- Reading the group at IDX into GRP and GRP_N (42_encode.md R192, R193, R197). -/
def loadGroup (D : Descriptor) (s : State) : State :=
  let r := groupLength D s
  { s with grp := topAligned ((List.range r).map fun j => s.inUnit (s.idx + j)), grpN := BitVec.ofNat 3 r }

/-- Appending the symbols of the group in GRP and moving IDX past it (42_encode.md R192 to R197). -/
def emitGroup (D : Descriptor) (s : State) : State :=
  let t := s.appendAll (groupSymbols D s.grp s.grpN.toNat)
  { t with idx := t.idx + s.grpN.toNat }

/-- The loop of 42_encode.md R197, `fuel` groups at most; LEN groups are always enough, each advancing IDX
by at least one. -/
def encodeGroups (D : Descriptor) : (fuel : Nat) → State → State
  | 0, s => s
  | fuel + 1, s =>
    if s.idx < s.operand then encodeGroups D fuel (emitGroup D (loadGroup D s)) else s

/-- The body of `ENC` (42_encode.md R197). -/
def encCall (D : Descriptor) (s : State) : Host.Outcome State Fault Refusal :=
  match s.callRefusal .enc D with
  | some r => .refused r
  | none => .next (encodeGroups D s.operand (s.startPhase .emit)).finish

/-- `ENC.HEXU` (42_encode.md R190). -/
def execEncHexu (s : State) : Host.Outcome State Fault Refusal := encCall (rom .hexUpper) s

/-- `ENC.HEXL` (42_encode.md R190). -/
def execEncHexl (s : State) : Host.Outcome State Fault Refusal := encCall (rom .hexLower) s

/-- `ENC.B32` (42_encode.md R190). -/
def execEncB32 (s : State) : Host.Outcome State Fault Refusal := encCall (rom .base32Rfc4648) s

/-- `ENC.B32H` (42_encode.md R190). -/
def execEncB32h (s : State) : Host.Outcome State Fault Refusal := encCall (rom .base32Hex) s

/-- `ENC.B32C` (42_encode.md R190). -/
def execEncB32c (s : State) : Host.Outcome State Fault Refusal := encCall (rom .base32Crockford) s

/-- `ENC.B64` (42_encode.md R190). -/
def execEncB64 (s : State) : Host.Outcome State Fault Refusal := encCall (rom .base64Rfc4648) s

/-- `ENC.B64U` (42_encode.md R190). -/
def execEncB64u (s : State) : Host.Outcome State Fault Refusal := encCall (rom .base64Url) s

/-- `ENC.B64UN` (42_encode.md R190). -/
def execEncB64un (s : State) : Host.Outcome State Fault Refusal := encCall (rom .base64UrlUnpadded) s

end Sys2Proof.Machine
end

