-- ==== Sys2Proof/Machine/Esz.lean ====
section
/-! DEFINITION. `ESZ`, encoded_size (41_size.md R174). -/

namespace Sys2Proof.Machine

/-- The body of `ESZ` (41_size.md R174): RLEN gets the size; no buffer is touched (R170). Refused when
the size does not fit (R178). -/
def eszCall (D : Descriptor) (s : State) : Host.Outcome State Fault Refusal :=
  match s.callRefusal .esz D with
  | some r => .refused r
  | none => .next (s.answer (encodedSize D s.operand)).finish

/-- `ESZ.HEXU` (41_size.md R174). -/
def execEszHexu (s : State) : Host.Outcome State Fault Refusal := eszCall (rom .hexUpper) s

/-- `ESZ.HEXL` (41_size.md R174). -/
def execEszHexl (s : State) : Host.Outcome State Fault Refusal := eszCall (rom .hexLower) s

/-- `ESZ.B32` (41_size.md R174). -/
def execEszB32 (s : State) : Host.Outcome State Fault Refusal := eszCall (rom .base32Rfc4648) s

/-- `ESZ.B32H` (41_size.md R174). -/
def execEszB32h (s : State) : Host.Outcome State Fault Refusal := eszCall (rom .base32Hex) s

/-- `ESZ.B32C` (41_size.md R174). -/
def execEszB32c (s : State) : Host.Outcome State Fault Refusal := eszCall (rom .base32Crockford) s

/-- `ESZ.B64` (41_size.md R174). -/
def execEszB64 (s : State) : Host.Outcome State Fault Refusal := eszCall (rom .base64Rfc4648) s

/-- `ESZ.B64U` (41_size.md R174). -/
def execEszB64u (s : State) : Host.Outcome State Fault Refusal := eszCall (rom .base64Url) s

/-- `ESZ.B64UN` (41_size.md R174). -/
def execEszB64un (s : State) : Host.Outcome State Fault Refusal := eszCall (rom .base64UrlUnpadded) s

end Sys2Proof.Machine
end

