-- ==== Sys2Proof/Machine/Dispatch.lean ====
section
/-! DEFINITION. The meaning of each command, one arm per constructor of Instr. -/

namespace Sys2Proof.Machine

def exec (i : Instr) (s : State) : Host.Outcome State Fault Refusal :=
  match i with
  | .eszHexu => Sys2Proof.Machine.execEszHexu s
  | .eszHexl => Sys2Proof.Machine.execEszHexl s
  | .eszB32 => Sys2Proof.Machine.execEszB32 s
  | .eszB32h => Sys2Proof.Machine.execEszB32h s
  | .eszB32c => Sys2Proof.Machine.execEszB32c s
  | .eszB64 => Sys2Proof.Machine.execEszB64 s
  | .eszB64u => Sys2Proof.Machine.execEszB64u s
  | .eszB64un => Sys2Proof.Machine.execEszB64un s
  | .dmsHexu => Sys2Proof.Machine.execDmsHexu s
  | .dmsHexl => Sys2Proof.Machine.execDmsHexl s
  | .dmsB32 => Sys2Proof.Machine.execDmsB32 s
  | .dmsB32h => Sys2Proof.Machine.execDmsB32h s
  | .dmsB32c => Sys2Proof.Machine.execDmsB32c s
  | .dmsB64 => Sys2Proof.Machine.execDmsB64 s
  | .dmsB64u => Sys2Proof.Machine.execDmsB64u s
  | .dmsB64un => Sys2Proof.Machine.execDmsB64un s
  | .encHexu => Sys2Proof.Machine.execEncHexu s
  | .encHexl => Sys2Proof.Machine.execEncHexl s
  | .encB32 => Sys2Proof.Machine.execEncB32 s
  | .encB32h => Sys2Proof.Machine.execEncB32h s
  | .encB32c => Sys2Proof.Machine.execEncB32c s
  | .encB64 => Sys2Proof.Machine.execEncB64 s
  | .encB64u => Sys2Proof.Machine.execEncB64u s
  | .encB64un => Sys2Proof.Machine.execEncB64un s
  | .decHexu => Sys2Proof.Machine.execDecHexu s
  | .decHexl => Sys2Proof.Machine.execDecHexl s
  | .decB32 => Sys2Proof.Machine.execDecB32 s
  | .decB32h => Sys2Proof.Machine.execDecB32h s
  | .decB32c => Sys2Proof.Machine.execDecB32c s
  | .decB64 => Sys2Proof.Machine.execDecB64 s
  | .decB64u => Sys2Proof.Machine.execDecB64u s
  | .decB64un => Sys2Proof.Machine.execDecB64un s

end Sys2Proof.Machine
end

