-- ==== Sys2Proof/Machine/Protocol.lean ====
section
/-! DEFINITION. The host's side of the call protocol (70_reset_and_hazards.md R283 to R290; access rights:
10_state.md R25). -/

namespace Sys2Proof.Machine

/-- Recording what a host read returned. -/
def State.note (s : State) (r : Reading) : State := { s with readings := r :: s.readings }

/-- `read OUT[0 .. n-1]`, unit by unit (30_encoding.md R110). -/
def readOutUnits (n : Nat) : List HostAction := (List.range n).map .readOut

/-- The branch at the end of `decode` (30_encoding.md R111), on what the host's last two reads gave. -/
def State.returnUnits (s : State) : State :=
  match s.readings with
  | .rlen n :: .status v :: _ =>
    if errField v = .none then { s with pending := readOutUnits n ++ s.pending } else s
  | _ => s

/-- A host action while no call runs (`busy = 0`). -/
def hostIdle (a : HostAction) (s : State) : Host.Outcome State Fault Refusal :=
  match a with
  | .writeCmd w =>
    let i := decodeCmd w
    match s.callRefusal i.op (rom i.variant) with
    | some r => .refused r
    | none => .next (s.startCall w)
  | .writeLen n => .next { s with len := lenOf n }
  | .writeIn i v => .next (s.store (s.inAt + i) v)
  | .readIn i => .next (s.note (.inUnit i (s.inUnit i)))
  | .writeOut j v => .next (s.store (s.outAt + j) v)
  | .readOut j => .next (s.note (.outUnit j (s.outUnit j)))
  | .reserve n => .next { s with outCap := n }
  | .attach i j => .next { s with inAt := i, outAt := j, outCap := 0 }
  | .readStatus => .next (s.note (.status s.status))
  | .readRlen => .next (s.note (.rlen s.rlen))
  | .readCmd => .next (s.note (.cmd s.cmd))
  | .readLen => .next (s.note (.len s.len))
  | .waitDone => if s.done then .next s else .next { s with pending := .waitDone :: s.pending }
  | .returnUnits => .next s.returnUnits
  | .reset => .next s.resetRegisters

/-- A host action while a call runs (`busy = 1`): register writes and buffer accesses are refused
(70_reset_and_hazards.md R290); reads of STATUS, CMD and LEN have no effect; RLEN reads as an unspecified
value; reset abandons the call (R281). -/
def hostBusy (a : HostAction) (s : State) : Host.Outcome State Fault Refusal :=
  match a with
  | .writeCmd _ | .writeLen _ => .refused .registerWriteWhileBusy
  | .writeIn _ _ | .readIn _ | .writeOut _ _ | .readOut _ | .reserve _ | .attach _ _ =>
    .refused .bufferAccessWhileBusy
  | .readStatus => .next (s.note (.status s.status))
  | .readRlen => .next { s.note (.rlen (Config.freeRlen s.draws).toNat) with draws := s.draws + 1 }
  | .readCmd => .next (s.note (.cmd s.cmd))
  | .readLen => .next (s.note (.len s.len))
  | .waitDone => .next { s with pending := .waitDone :: s.pending }
  | .returnUnits => .next s.returnUnits
  | .reset => .next s.abandonCall

/-- Taking the next host action off the list. -/
def State.dropPending (s : State) : State := { s with pending := s.pending.tail }

/-- Whether the host does nothing more, or waits for the end of the call. -/
def State.hostOnlyWaits (s : State) : Bool :=
  match s.pending with
  | [] | .waitDone :: _ => true
  | _ => false

/-- Whether the host's next action is a read of a register. -/
def State.hostReadsNext (s : State) : Bool :=
  match s.pending with
  | .readStatus :: _ | .readRlen :: _ | .readCmd :: _ | .readLen :: _ => true
  | _ => false

/-- Whether, of a running call, it is the engine that moves next: the host only waits, or reads a register
and the call happens to end before (70_reset_and_hazards.md R286, R293; log 14). -/
def State.engineTurn (s : State) : Bool :=
  s.hostOnlyWaits || (s.hostReadsNext && Config.callEndsFirst s.draws s.readings.length)

/-- The host waits for the end of the call before it does anything else. -/
def State.hostWaits (s : State) : State :=
  if s.hostOnlyWaits then s else { s with pending := .waitDone :: s.pending }

/-- The host's move: its next action, or nothing. -/
def hostStep (s : State) : Host.Outcome State Fault Refusal :=
  match s.pending with
  | [] => .next s
  | a :: _ => if s.busy then hostBusy a s.dropPending else hostIdle a s.dropPending

end Sys2Proof.Machine
end

