-- ==== Sys2Proof/Machine/Step.lean ====
section
/-! DEFINITION. One step: the engine completes the running call (70_reset_and_hazards.md R285, R286), or
the host acts. -/

namespace Sys2Proof.Machine

/-- One step. While a call runs and it is the engine's turn, the engine runs the command in CMD to its end;
otherwise the host makes its next move (log 2, log 14). -/
def step (s : State) : Host.Outcome State Fault Refusal :=
  if s.busy && s.engineTurn then exec (decodeCmd s.cmd) s else hostStep s

/-- The state in which the command with table bits `w` has just been started, so that the next step runs it
(70_reset_and_hazards.md R284; log 3). A command fits one word, so the width is not needed. -/
def State.withFetchWord (s : State) (_nbits w : Nat) : State := (s.startCall (BitVec.ofNat 5 w)).hostWaits

end Sys2Proof.Machine
end

