-- ==== Sys2Proof/Machine/Mapper.lean ====
section
/-! DEFINITION. The block-aligned mapper and what the spec says of whole texts, as functions on sequences:
`pack` and `unpack` (42_encode.md R198, 43_decode.md R227), the encoded text (42_encode.md R191 to R195),
the verdict list (43_decode.md R221) and the decoded bytes. The engine of Enc.lean and Dec.lean computes
them register by register; these are the block-at-a-time form the statements compare it with. -/

namespace Sys2Proof.Machine

/-- A sequence in consecutive blocks of `n`; the last may be shorter (42_encode.md R191). -/
def blocksOf {α : Type} (n : Nat) (xs : List α) : List (List α) :=
  (List.range (ceilDiv xs.length n)).map fun g => (xs.drop (g * n)).take n

/-- The number whose digits in base `base` are `ds`, the most significant first (20_memory.md R70). -/
def bigEndian (base : Nat) (ds : List Nat) : Nat := ds.foldl (fun n d => base * n + d) 0

/-- The group `G` of the bytes `B`, missing bytes zero (30_encoding.md R102). -/
def groupNumber (D : Descriptor) (B : List Byte) : Nat :=
  bigEndian 256 (B.map BitVec.toNat) * 256 ^ (D.blockBytes - B.length)

/-- `pack(D, B)` (42_encode.md R198): the fields `S_k` of 30_encoding.md R102. -/
def pack (D : Descriptor) (B : List Byte) : List Nat :=
  (List.range (dataSymbols D B.length)).map fun k =>
    groupNumber D B / 2 ^ (8 * D.blockBytes - (k + 1) * D.bitsPerSymbol) % 2 ^ D.bitsPerSymbol

/-- The block `S` of the symbol values, missing symbols zero (30_encoding.md R106, R107). -/
def blockNumber (D : Descriptor) (S : List Nat) : Nat :=
  bigEndian (2 ^ D.bitsPerSymbol) S * (2 ^ D.bitsPerSymbol) ^ (D.blockSymbols - S.length)

/-- How many bytes a block of `m` symbols yields (43_decode.md R227). -/
def blockYield (D : Descriptor) (m : Nat) : Nat :=
  if m = D.blockSymbols then D.blockBytes else partialBytes D m

/-- `unpack(D, S)` (43_decode.md R227): the bytes `B_j` of 30_encoding.md R106. -/
def unpack (D : Descriptor) (S : List Nat) : List Byte :=
  (List.range (blockYield D S.length)).map fun j =>
    BitVec.ofNat 8 (blockNumber D S / 2 ^ (8 * D.blockBytes - 8 * (j + 1)))

/-- The text of one group (42_encode.md R192 to R195). -/
def groupText (D : Descriptor) (B : List Byte) : List Byte :=
  (pack D B).map D.encAt ++
    (if B.length < D.blockBytes ∧ D.padPolicy = .required then
      List.replicate (D.blockSymbols - dataSymbols D B.length) D.padSymbol
    else [])

/-- The encoded text of a byte sequence (42_encode.md R191). -/
def encodedText (D : Descriptor) (bytes : List Byte) : List Byte :=
  (blocksOf D.blockBytes bytes).flatMap (groupText D)

/-- Whether a class is *data*. -/
def CharClass.isData : CharClass → Bool
  | .data _ => true
  | _ => false

/-- The value of a data character. -/
def CharClass.value? : CharClass → Option Nat
  | .data v => some v.toNat
  | _ => none

/-- The data values of a text in order (43_decode.md R222). -/
def dataValues (D : Descriptor) (text : List Byte) : List Nat :=
  text.filterMap fun c => (classify D c).value?

/-- `PAD_COUNT` of a text (43_decode.md R214). -/
def padCountOf (D : Descriptor) (text : List Byte) : Nat := text.countP fun c => classify D c == .pad

/-- Some character is *invalid* (43_decode.md R221 (1)). -/
def hasInvalid (D : Descriptor) (text : List Byte) : Bool := text.any fun c => classify D c == .invalid

/-- Some *data* character follows a *pad* character (43_decode.md R221 (2)). -/
def hasDataAfterPad (D : Descriptor) (text : List Byte) : Bool :=
  (text.dropWhile fun c => classify D c != .pad).any fun c => (classify D c).isData

/-- The verdict of a decode, the decision list of 43_decode.md R221 line by line. -/
def verdict (D : Descriptor) (text : List Byte) : Err :=
  let dataCount := (dataValues D text).length
  let padCount := padCountOf D text
  let inPaddedForm := D.padPolicy = .required ∨ (D.padPolicy = .optional ∧ 0 < padCount)
  if hasInvalid D text then .symbolError
  else if hasDataAfterPad D text then .symbolError
  else if inPaddedForm ∧ (dataCount + padCount) % D.blockSymbols ≠ 0 then .paddingError
  else if validRem D (dataCount % D.blockSymbols) = false then .invalidInputLengthError
  else if inPaddedForm ∧ padCount ≠ expectedPad D (dataCount % D.blockSymbols) then .paddingError
  else .none

/-- The bytes a text decodes to when its verdict is `none` (43_decode.md R224, R227). -/
def decodedBytes (D : Descriptor) (text : List Byte) : List Byte :=
  (blocksOf D.blockSymbols (dataValues D text)).flatMap (unpack D)

/-- The input of a call: `IN[0 .. LEN-1]` (20_memory.md R61). -/
def State.inputUnits (s : State) : List Byte := (List.range s.operand).map s.inUnit

end Sys2Proof.Machine
end

