-- ==== Sys2Proof/Safety.lean ====
section
/-! DEFINITION. What a safe run is: the invariant of the states between steps, and the commands by
operation, for the statements. -/

namespace Sys2Proof

/-- The descriptor record a command runs on (30_encoding.md R94). -/
def Instr.record (i : Instr) : Machine.Descriptor := Machine.rom i.variant

/-- The eight `ESZ` commands. -/
def eszCommands : List Instr :=
  [.eszHexu, .eszHexl, .eszB32, .eszB32h, .eszB32c, .eszB64, .eszB64u, .eszB64un]

/-- The eight `DMS` commands. -/
def dmsCommands : List Instr :=
  [.dmsHexu, .dmsHexl, .dmsB32, .dmsB32h, .dmsB32c, .dmsB64, .dmsB64u, .dmsB64un]

/-- The eight `ENC` commands. -/
def encCommands : List Instr :=
  [.encHexu, .encHexl, .encB32, .encB32h, .encB32c, .encB64, .encB64u, .encB64un]

/-- The eight `DEC` commands. -/
def decCommands : List Instr :=
  [.decHexu, .decHexl, .decB32, .decB32h, .decB32c, .decB64, .decB64u, .decB64un]

namespace Machine

/-- STATUS is one the protocol can leave (10_state.md R23, R33): never busy and done at once; IDLE exactly
when not busy; an error only of a finished call. -/
abbrev State.statusLegal (s : State) : Prop :=
  ¬ (s.busy = true ∧ s.done = true) ∧ (s.phase = .idle ↔ s.busy = false) ∧ (s.done = false → s.err = .none)

/-- A call that is running has just been started (70_reset_and_hazards.md R284, R285) and none of its
premises is broken (R294). -/
abbrev State.startLegal (s : State) : Prop :=
  s.busy = true →
    s.startValues = s ∧ s.phase = firstPhase (decodeCmd s.cmd).op ∧
    s.callRefusal (decodeCmd s.cmd).op (decodeCmd s.cmd).record = none

/-- Which command can have ended with which error (60_exceptions.md R255). -/
abbrev State.errLegal (s : State) : Prop :=
  (s.err ≠ .none → (decodeCmd s.cmd).op = .dec) ∧
  (s.err = .paddingError → (decodeCmd s.cmd).record.padPolicy ≠ .forbidden)

/-- Every LEN_W-bit register holds a number of LEN_W bits (10_state.md R22, R24, R29, R34). -/
abbrev State.widthsLegal (s : State) : Prop :=
  s.len < 2 ^ Config.lenW ∧ s.rlen < 2 ^ Config.lenW ∧ s.idx < 2 ^ Config.lenW ∧
  s.dataCount < 2 ^ Config.lenW ∧ s.padCount < 2 ^ Config.lenW

/-- The invariant of the states between steps; a run is safe when all its states meet it. -/
abbrev State.Inv (s : State) : Prop :=
  s.statusLegal ∧ s.startLegal ∧ s.errLegal ∧ s.widthsLegal ∧ s.mem.wf

/-- Some unit is both in `IN[0 .. LEN-1]` and among the first `frame` units of OUT (20_memory.md R69). -/
abbrev State.sharesUnits (s : State) (frame : Nat) : Prop :=
  ∃ i < s.operand, ∃ j < frame, s.inAt + i = s.outAt + j

/-- The premises of an `ENC` on a descriptor (42_encode.md R190). -/
abbrev State.encPremises (s : State) (D : Descriptor) : Prop :=
  encodedSize D s.operand < 2 ^ Config.lenW ∧ encodedSize D s.operand ≤ s.outCap ∧
  ¬ s.sharesUnits (encodedSize D s.operand)

/-- The premises of a `DEC` on a descriptor (43_decode.md R210). -/
abbrev State.decPremises (s : State) (D : Descriptor) : Prop :=
  decodedMaxSize D s.operand ≤ s.outCap ∧ ¬ s.sharesUnits (decodedMaxSize D s.operand)

/-- The premises of a command on the state it starts in (70_reset_and_hazards.md R291, R292). -/
abbrev State.premises (s : State) (i : Instr) : Prop :=
  match i.op with
  | .esz => encodedSize i.record s.operand < 2 ^ Config.lenW
  | .dms => True
  | .enc => s.encPremises i.record
  | .dec => s.decPremises i.record

/-- How a call ends: STATUS reports `e`, PHASE is IDLE (60_exceptions.md R254). -/
abbrev State.ended (s : State) (e : Err) : Prop :=
  s.err = e ∧ s.done = true ∧ s.busy = false ∧ s.phase = .idle

end Machine

end Sys2Proof
end

