-- ==== Sys2Proof/Certificates/Slice0/Obligations.lean ====
section
/-! DEFINITION. The statements for the provers. Each docstring names the rules it rests on; OBLIGATIONS.json
holds its text. -/

open Sys2Proof Sys2Proof.Machine

/-- The 32 command words are the 32 commands, 8*op + var, and every 5-bit value is one (R91, R92, R93). -/
def Obligations.CommandWordsAreTheTableOfR93 : Prop :=
  (List.range 32).map (fun w => decodeCmd (BitVec.ofNat 5 w)) =
    eszCommands ++ dmsCommands ++ encCommands ++ decCommands ∧
  ∀ i : Instr, (encodeCmd i).toNat =
    8 * (match i.op with | .esz => 0 | .dms => 1 | .enc => 2 | .dec => 3) +
      (match i.variant with
        | .hexUpper => 0 | .hexLower => 1 | .base32Rfc4648 => 2 | .base32Hex => 3
        | .base32Crockford => 4 | .base64Rfc4648 => 5 | .base64Url => 6 | .base64UrlUnpadded => 7)

/-- Decoding the word of a command gives the command, and encoding what a word decodes to gives the word (R93, R108). -/
def Obligations.DecodeOfEncodeIsTheCommand : Prop :=
  (∀ (i : Instr) (rest : List Byte), decode (encode i ++ rest) = .ok (i, rest)) ∧
  ∀ w : BitVec 5, encodeCmd (decodeCmd w) = w

/-- Words written out from the table of R93, one or more per operation, decode to their commands (30_encoding.md section 1 (table of words), 95_test_vectors.md section 1). -/
def Obligations.WordsWrittenOutDecodeRight : Prop :=
  decodeTableWord 8 0x04 = some .eszB32c ∧ decodeTableWord 8 0x0A = some .dmsB32 ∧
  decodeTableWord 8 0x15 = some .encB64 ∧ decodeTableWord 8 0x10 = some .encHexu ∧
  decodeTableWord 8 0x19 = some .decHexl ∧ decodeTableWord 8 0x1F = some .decB64un

/-- A byte is a command word exactly when its bits above bit 4 are zero (the model's choice, log 13) (R90, notes/assumptions/13.md). -/
def Obligations.DecoderRejectsWhatIsNoCommandWord : Prop :=
  decode [] = .error .noWord ∧
  ∀ (b : Byte) (rest : List Byte),
    (32 ≤ b.toNat → decode (b :: rest) = .error .widerThanFiveBits) ∧
    (b.toNat < 32 → decode (b :: rest) = .ok (decodeCmd (BitVec.ofNat 5 b.toNat), rest))

/-- While a call runs and the host only waits, a step is exec of the command that CMD decodes to (whose turn it is: the model's choice, log 14) (R284, R285, notes/assumptions/14.md). -/
def Obligations.StepRunsTheDecodedCommand : Prop :=
  ∀ s : State, s.busy = true → (s.pending = [] ∨ ∃ rest, s.pending = .waitDone :: rest) →
    step s = exec (decodeCmd s.cmd) s

/-- A word placed where the machine takes its next command is the command the next step runs (how a word is placed: the model's choice, log 3) (R284, notes/assumptions/3.md). -/
def Obligations.StartedWordIsRunNext : Prop :=
  ∀ (s : State) (nbits w : Nat), w < 32 →
    ∃ i, decodeTableWord 8 w = some i ∧
      step (s.withFetchWord nbits w) = exec i (s.withFetchWord nbits w) ∧
      (s.withFetchWord nbits w).cmd = encodeCmd i ∧ (s.withFetchWord nbits w).len = s.len ∧
      (s.withFetchWord nbits w).mem = s.mem ∧ (s.withFetchWord nbits w).inAt = s.inAt ∧
      (s.withFetchWord nbits w).outAt = s.outAt ∧ (s.withFetchWord nbits w).outCap = s.outCap

/-- A CMD write with busy = 0 and its premises met starts the call: STATUS, RLEN, the working registers and PHASE (when it is refused: log 10 and O18) (R284, R35, R23, 95_test_vectors.md part 7, notes/assumptions/10.md). -/
def Obligations.CmdWriteStartsTheCall : Prop :=
  ∀ (s : State) (w : BitVec 5) (rest : List HostAction), s.busy = false → s.pending = .writeCmd w :: rest →
    s.premises (decodeCmd w) →
    ∃ t, step s = .next t ∧ t.cmd = w ∧ t.status = 0x1#4 ∧ t.busy = true ∧ t.done = false ∧ t.err = .none ∧
      t.rlen = 0 ∧ t.idx = 0 ∧ t.grp = 0 ∧ t.grpN = 0 ∧ t.acc = 0 ∧ t.accBits = 0 ∧ t.dataCount = 0 ∧
      t.padCount = 0 ∧ t.padSeen = false ∧ t.dataAfterPad = false ∧ t.phase ≠ .idle ∧
      t.len = s.len ∧ t.mem = s.mem ∧ t.inAt = s.inAt ∧ t.outAt = s.outAt ∧ t.outCap = s.outCap ∧
      t.pending = rest

/-- No step leaves the idle state but a host write of CMD (R21, R284). -/
def Obligations.OnlyACmdWriteStartsACall : Prop :=
  ∀ s t : State, s.busy = false → step s = .next t → t.busy = true →
    ∃ w rest, s.pending = .writeCmd w :: rest ∧ t.cmd = w

/-- CMD write then wait done: three steps start the call, complete it, hand control back to the host (three: the model's choice, log 14) (R285, R286, notes/assumptions/14.md). -/
def Obligations.CommandRunsFromCmdWriteToDone : Prop :=
  ∀ (s : State) (w : BitVec 5) (rest : List HostAction), s.busy = false →
    s.pending = .writeCmd w :: .waitDone :: rest →
    s.premises (decodeCmd w) →
    ∃ t, Host.Core.run Sys2Proof.core 3 s = .next t ∧ t.done = true ∧ t.busy = false ∧ t.phase = .idle ∧
      t.pending = rest ∧ t.cmd = w ∧ t.len = s.len

/-- Every register at reset has the value of the table of R40; every unit of IN and OUT is unspecified (R40, R280, notes/assumptions/4.md). -/
def Obligations.ResetValuesOfTheRegisters : Prop :=
  State.reset.cmd = 0 ∧ State.reset.len = 0 ∧ State.reset.status = 0 ∧ State.reset.rlen = 0 ∧
  State.reset.phase = .idle ∧ State.reset.idx = 0 ∧ State.reset.grp = 0 ∧ State.reset.grpN = 0 ∧
  State.reset.acc = 0 ∧ State.reset.accBits = 0 ∧ State.reset.dataCount = 0 ∧ State.reset.padCount = 0 ∧
  State.reset.padSeen = false ∧ State.reset.dataAfterPad = false ∧
  State.reset.busy = false ∧ State.reset.done = false ∧ State.reset.err = .none ∧
  (∀ i, State.reset.inUnit i = Config.unplaced (State.reset.inAt + i)) ∧
  (∀ j, State.reset.outUnit j = Config.unplaced (State.reset.outAt + j))

/-- The reset event while idle puts every register at its reset value and touches neither IN nor OUT (nor the host's fields: the model's choice, log 11) (R280, notes/assumptions/11.md). -/
def Obligations.ResetEventClearsTheRegisters : Prop :=
  ∀ (s : State) (rest : List HostAction), s.busy = false → s.pending = .reset :: rest →
    step s = .next { State.reset with
      mem := s.mem, inAt := s.inAt, outAt := s.outAt, outCap := s.outCap,
      pending := rest, readings := s.readings, draws := s.draws }

/-- Reset during a call: registers reset, no result, memory unchanged outside the write frame (reset comes first, host fields stay: the model's choice, logs 11, 14) (R280, R281, R67, notes/assumptions/11.md, notes/assumptions/14.md). -/
def Obligations.ResetDuringACallAbandonsIt : Prop :=
  ∀ (s : State) (rest : List HostAction), s.busy = true → s.pending = .reset :: rest →
    ∃ t, step s = .next t ∧ t.busy = false ∧ t.done = false ∧
      { t with mem := s.mem, draws := s.draws } = { State.reset with
        mem := s.mem, inAt := s.inAt, outAt := s.outAt, outCap := s.outCap,
        pending := rest, readings := s.readings, draws := s.draws } ∧
      ∀ a, (a < s.outAt ∨ s.outAt + (match (decodeCmd s.cmd).op with
              | .esz | .dms => 0
              | .enc => encodedSize (decodeCmd s.cmd).record s.operand
              | .dec => decodedMaxSize (decodeCmd s.cmd).record s.operand) ≤ a) →
        t.mem.read a = s.mem.read a

/-- ESZ completes with RLEN = encoded_size(LEN) when it fits, err = none, and touches no buffer (R174, R170). -/
def Obligations.EszGivesTheEncodedSize : Prop :=
  ∀ i ∈ eszCommands, ∀ (s : State) (size : Nat),
    size = (if i.record.padPolicy = .required then
        s.operand / i.record.blockBytes * i.record.blockSymbols +
          (if s.operand % i.record.blockBytes ≠ 0 then i.record.blockSymbols else 0)
      else (8 * s.operand + i.record.bitsPerSymbol - 1) / i.record.bitsPerSymbol) →
    size < 2 ^ Config.lenW →
    ∃ t, exec i s = .next t ∧ t.rlen = size ∧ t.ended .none ∧
      t.mem = s.mem ∧ t.len = s.len ∧ t.cmd = s.cmd

/-- DMS always completes with RLEN = decoded_max_size(LEN) <= LEN, err = none, and touches no buffer (R175, R178, R170). -/
def Obligations.DmsGivesTheDecodedMaxSize : Prop :=
  ∀ i ∈ dmsCommands, ∀ s : State, ∃ t, exec i s = .next t ∧
    t.rlen = (if i.record.padPolicy = .required then
        s.operand / i.record.blockSymbols * i.record.blockBytes +
          partialBytes i.record (s.operand % i.record.blockSymbols)
      else s.operand * i.record.bitsPerSymbol / 8) ∧
    t.rlen ≤ s.operand ∧ t.ended .none ∧
    t.mem = s.mem ∧ t.len = s.len ∧ t.cmd = s.cmd

/-- data_symbols(r) = ceil(8r/bps), with the values of R171; a full group has bsc symbols (R171). -/
def Obligations.DataSymbolsOfAPartialGroup : Prop :=
  ∀ v : Variant,
    (∀ r ≤ (rom v).blockBytes, dataSymbols (rom v) r * (rom v).bitsPerSymbol < 8 * r + (rom v).bitsPerSymbol ∧
      8 * r ≤ dataSymbols (rom v) r * (rom v).bitsPerSymbol) ∧
    (List.range ((rom v).blockBytes + 1)).map (dataSymbols (rom v)) =
      (match (rom v).bitsPerSymbol with
        | 4 => [0, 2]
        | 5 => [0, 2, 4, 5, 7, 8]
        | _ => [0, 2, 3, 4]) ∧
    dataSymbols (rom v) (rom v).blockBytes = (rom v).blockSymbols

/-- valid_rem, partial_bytes and expected_pad are the remainder table of R172 and R173 (R172, R173). -/
def Obligations.RemainderTableFunctions : Prop :=
  ∀ v : Variant, ∀ m < (rom v).blockSymbols,
    (validRem (rom v) m = true ↔ ∃ r < (rom v).blockBytes, m = dataSymbols (rom v) r) ∧
    (validRem (rom v) m = true ↔ m * (rom v).bitsPerSymbol % 8 < (rom v).bitsPerSymbol) ∧
    (validRem (rom v) m = true ↔ m ∈ (match (rom v).bitsPerSymbol with
      | 4 => [0]
      | 5 => [0, 2, 4, 5, 7]
      | _ => [0, 2, 3])) ∧
    (∀ r < (rom v).blockBytes, m = dataSymbols (rom v) r → partialBytes (rom v) m = r) ∧
    (validRem (rom v) m = true → partialBytes (rom v) m = m * (rom v).bitsPerSymbol / 8) ∧
    (validRem (rom v) m = false → partialBytes (rom v) m = 0) ∧
    (validRem (rom v) m = true → expectedPad (rom v) m = if m = 0 then 0 else (rom v).blockSymbols - m)

/-- ESZ and ENC are refused with lengthRange exactly past the width limit; the limits for 32 bits (the order of refusals is the model's choice, log 10) (R178, R292, notes/assumptions/1.md, notes/assumptions/10.md). -/
def Obligations.WidthLimitOfEszAndEnc : Prop :=
  (∀ i ∈ eszCommands ++ encCommands, ∀ s : State,
    exec i s = .refused .lengthRange ↔ 2 ^ Config.lenW ≤ encodedSize i.record s.operand) ∧
  (∀ i ∈ eszCommands, ∀ (s : State) (r : Refusal), exec i s = .refused r →
    2 ^ Config.lenW ≤ encodedSize i.record s.operand) ∧
  ∀ (v : Variant) (n : Nat), encodedSize (rom v) n < 2 ^ 32 ↔ n ≤
    (match v with
      | .hexUpper | .hexLower => 2147483647
      | .base32Rfc4648 | .base32Hex => 2684354555
      | .base32Crockford => 2684354559
      | .base64Rfc4648 | .base64Url => 3221225469
      | .base64UrlUnpadded => 3221225471)

/-- A command, and the CMD write that starts it, is refused exactly when a premise of the call is broken; DMS never is (both checks: the model's choice, log 10) (R66, R69, R178, R291, R292, R294, notes/assumptions/6.md, notes/assumptions/10.md, notes/assumptions/12.md). -/
def Obligations.CallsAreRefusedExactlyForABrokenPremise : Prop :=
  (∀ (i : Instr) (s : State),
    ((∃ r, exec i s = .refused r) ↔
      (match i.op with
        | .esz => 2 ^ Config.lenW ≤ encodedSize i.record s.operand
        | .dms => False
        | .enc => 2 ^ Config.lenW ≤ encodedSize i.record s.operand ∨
            s.outCap < encodedSize i.record s.operand ∨
            ∃ k < s.operand, ∃ j < encodedSize i.record s.operand, s.inAt + k = s.outAt + j
        | .dec => s.outCap < decodedMaxSize i.record s.operand ∨
            ∃ k < s.operand, ∃ j < decodedMaxSize i.record s.operand, s.inAt + k = s.outAt + j)) ∧
    (∀ f, exec i s ≠ .fault f)) ∧
  ∀ (s : State) (w : BitVec 5) (rest : List HostAction), s.busy = false → s.pending = .writeCmd w :: rest →
    ((∃ r, step s = .refused r) ↔ ¬ s.premises (decodeCmd w))

/-- Every command that ends leaves CMD, LEN, IN[0 .. LEN-1] and the host's state alone, and reports through STATUS and PHASE (R254, R67, R21, R22, notes/assumptions/2.md). -/
def Obligations.CommandFrame : Prop :=
  ∀ (i : Instr) (s t : State), exec i s = .next t →
    t.cmd = s.cmd ∧ t.len = s.len ∧ (∀ k < s.operand, t.inUnit k = s.inUnit k) ∧
    t.inAt = s.inAt ∧ t.outAt = s.outAt ∧ t.outCap = s.outCap ∧
    t.pending = s.pending ∧ t.readings = s.readings ∧
    t.done = true ∧ t.busy = false ∧ t.phase = .idle

/-- Which units of memory a command may change: none, or encoded_size, RLEN, decoded_max_size units of OUT (R67, R65, R68). -/
def Obligations.SinkWriteFrame : Prop :=
  ∀ (i : Instr) (s t : State), exec i s = .next t → ∀ a,
    (a < s.outAt ∨ s.outAt + (match i.op with
      | .esz | .dms => 0
      | .enc => encodedSize i.record s.operand
      | .dec => if t.err = .none then t.rlen else decodedMaxSize i.record s.operand) ≤ a) →
    t.mem.read a = s.mem.read a

/-- Which command can end with which error: only DEC with an error, forbidden policies never with padding_error (R255, R250). -/
def Obligations.ErrorsOfEachCommand : Prop :=
  ∀ (i : Instr) (s t : State), exec i s = .next t →
    (i.op ≠ .dec → t.err = .none) ∧
    (i.record.padPolicy = .forbidden → t.err ≠ .paddingError) ∧
    (i.record.padPolicy = .optional → t.err = .paddingError → 0 < padCountOf i.record s.inputUnits)

/-- ENC completes with RLEN = encoded_size(LEN) and OUT holding the encoded text of IN, group by group (R190, R191, R192, R193, R194, R195, R199). -/
def Obligations.EncWritesTheEncodedText : Prop :=
  ∀ i ∈ encCommands, ∀ s : State, s.encPremises i.record →
    ∃ t, exec i s = .next t ∧ t.ended .none ∧ t.rlen = encodedSize i.record s.operand ∧
      (encodedText i.record s.inputUnits).length = encodedSize i.record s.operand ∧
      ∀ j < encodedSize i.record s.operand, (encodedText i.record s.inputUnits)[j]? = some (t.outUnit j)

/-- The fields the engine slices from GRP are the symbol values of pack (R27, R102, R198). -/
def Obligations.GroupRegisterFieldsArePack : Prop :=
  ∀ (v : Variant) (B : List Byte), B.length ≤ (rom v).blockBytes →
    (List.range (dataSymbols (rom v) B.length)).map (groupField (rom v) (topAligned B)) = pack (rom v) B

/-- Every unit the encoder writes is one of the 2^bps alphabet characters or the pad symbol (R196). -/
def Obligations.EncoderEmitsAlphabetOrPad : Prop :=
  ∀ i ∈ encCommands, ∀ s t : State, exec i s = .next t →
    (symbolString i.variant).length = 2 ^ i.record.bitsPerSymbol ∧
    ∀ j < encodedSize i.record s.operand,
      t.outUnit j ∈ symbolString i.variant ∨ (i.record.hasPad = true ∧ t.outUnit j = i.record.padSymbol)

/-- ENC.HEXL writes what ENC.HEXU writes in lower case; ENC.B64U writes what ENC.B64UN writes with pads added (R199). -/
def Obligations.EncoderVariantsDifferInCaseOrPadsOnly : Prop :=
  (∀ s u t w : State, u.len = s.len → (∀ k < s.operand, u.inUnit k = s.inUnit k) →
    (exec .encHexu s = .next t → exec .encHexl u = .next w →
      w.rlen = t.rlen ∧ ∀ j < t.rlen, w.outUnit j = lowerOf (t.outUnit j)) ∧
    (exec .encB64un s = .next t → exec .encB64u u = .next w →
      t.rlen ≤ w.rlen ∧ w.rlen < t.rlen + 4 ∧ w.rlen % 4 = 0 ∧
      (∀ j < t.rlen, w.outUnit j = t.outUnit j) ∧
      ∀ j < w.rlen, t.rlen ≤ j → w.outUnit j = equalsSign)) ∧
  ∀ bytes : List Byte,
    encodedText (rom .hexLower) bytes = (encodedText (rom .hexUpper) bytes).map lowerOf ∧
    ∃ k, k < 4 ∧ ((encodedText (rom .base64UrlUnpadded) bytes).length + k) % 4 = 0 ∧
      encodedText (rom .base64Url) bytes =
        encodedText (rom .base64UrlUnpadded) bytes ++ List.replicate k equalsSign

/-- Step 1 ends early exactly on an invalid character; else it counts data and pads and notes data after a pad (R213, R214, R215, R34). -/
def Obligations.ScanCountsTheCharacters : Prop :=
  ∀ (v : Variant) (s : State),
    (scanUnits (rom v) s.operand (s.startPhase .scan) = none ↔
      hasInvalid (rom v) s.inputUnits = true) ∧
    ∀ t, scanUnits (rom v) s.operand (s.startPhase .scan) = some t →
      t.idx = s.len ∧ t.dataCount = (dataValues (rom v) s.inputUnits).length ∧
      t.padCount = padCountOf (rom v) s.inputUnits ∧
      t.padSeen = decide (0 < padCountOf (rom v) s.inputUnits) ∧
      t.dataAfterPad = hasDataAfterPad (rom v) s.inputUnits

/-- DEC completes on every text, with err the verdict of the decision list of R221 (R221). -/
def Obligations.DecEndsWithTheVerdictOfItsText : Prop :=
  ∀ i ∈ decCommands, ∀ s : State, s.decPremises i.record →
    ∃ t, exec i s = .next t ∧ t.done = true ∧ t.busy = false ∧ t.phase = .idle ∧
      t.status = (match t.err with
        | .none => 0x2#4 | .symbolError => 0x6#4 | .invalidInputLengthError => 0xA#4 | .paddingError => 0xE#4) ∧
      ∀ (dataCount padCount : Nat) (paddedForm : Prop),
        dataCount = (dataValues i.record s.inputUnits).length →
        padCount = padCountOf i.record s.inputUnits →
        (paddedForm ↔ i.record.padPolicy = .required ∨ (i.record.padPolicy = .optional ∧ 0 < padCount)) →
        ((∃ c ∈ s.inputUnits, classify i.record c = .invalid) → t.err = .symbolError) ∧
        ((¬ ∃ c ∈ s.inputUnits, classify i.record c = .invalid) →
          (hasDataAfterPad i.record s.inputUnits = true → t.err = .symbolError) ∧
          (hasDataAfterPad i.record s.inputUnits = false →
            (paddedForm ∧ (dataCount + padCount) % i.record.blockSymbols ≠ 0 → t.err = .paddingError) ∧
            (¬ (paddedForm ∧ (dataCount + padCount) % i.record.blockSymbols ≠ 0) →
              (validRem i.record (dataCount % i.record.blockSymbols) = false →
                t.err = .invalidInputLengthError) ∧
              (validRem i.record (dataCount % i.record.blockSymbols) = true →
                (paddedForm ∧ padCount ≠ expectedPad i.record (dataCount % i.record.blockSymbols) →
                  t.err = .paddingError) ∧
                (¬ (paddedForm ∧ padCount ≠ expectedPad i.record (dataCount % i.record.blockSymbols)) →
                  t.err = .none)))))

/-- DEC of a text with verdict none writes the bytes unpack gives, RLEN = floor(DATA_COUNT*bps/8) of them (R222, R223, R224, R227, R106). -/
def Obligations.DecWritesTheDecodedBytes : Prop :=
  ∀ i ∈ decCommands, ∀ s : State, s.decPremises i.record → verdict i.record s.inputUnits = .none →
    ∃ t, exec i s = .next t ∧ t.ended .none ∧
      t.rlen = (dataValues i.record s.inputUnits).length * i.record.bitsPerSymbol / 8 ∧
      (decodedBytes i.record s.inputUnits).length = t.rlen ∧
      ∀ j < t.rlen, (decodedBytes i.record s.inputUnits)[j]? = some (t.outUnit j)

/-- After a DEC RLEN is at most decoded_max_size(LEN), on success and (as a free value) on failure (R179, R24, 93_implementation_defined.md U2, notes/assumptions/8.md). -/
def Obligations.DecResultIsBoundedByDms : Prop :=
  ∀ i ∈ decCommands, ∀ s t : State, exec i s = .next t →
    t.rlen ≤ decodedMaxSize i.record s.operand ∧ decodedMaxSize i.record s.operand ≤ s.operand

/-- Round trip: DEC of what ENC wrote ends with none and gives the input bytes back, for every variant and input (R199, 95_test_vectors.md S23). -/
def Obligations.DecodeOfEncodeGivesTheBytesBack : Prop :=
  ∀ i ∈ encCommands, ∀ d ∈ decCommands, d.variant = i.variant → ∀ s t u : State, exec i s = .next t →
    u.len = t.rlen → (∀ j < t.rlen, u.inUnit j = t.outUnit j) → u.decPremises d.record →
    ∃ w, exec d u = .next w ∧ w.ended .none ∧ w.rlen = s.len ∧
      ∀ j < s.operand, w.outUnit j = s.inUnit j

/-- Absorbing a data value: no bit is lost, at most one byte is emitted, fewer than 8 bits stay pending (R223, R28). -/
def Obligations.AbsorbingASymbolKeepsThePendingBits : Prop :=
  ∀ (v : Variant) (x : Byte) (acc : BitVec 13) (accBits : BitVec 4),
    accBits.toNat ≤ 7 → acc.toNat < 2 ^ accBits.toNat → x.toNat < 2 ^ (rom v).bitsPerSymbol →
    ∀ r, r = absorbValue (rom v) x acc accBits →
      r.2.1.toNat ≤ 7 ∧ r.1.toNat < 2 ^ r.2.1.toNat ∧
      (r.2.2.isSome = true ↔ 8 ≤ accBits.toNat + (rom v).bitsPerSymbol) ∧
      r.2.1.toNat + (if r.2.2.isSome then 8 else 0) = accBits.toNat + (rom v).bitsPerSymbol ∧
      acc.toNat * 2 ^ (rom v).bitsPerSymbol + x.toNat =
        (match r.2.2 with | some b => b.toNat | none => 0) * 2 ^ r.2.1.toNat + r.1.toNat

/-- Under a case-insensitive descriptor a text and its case-flip decode to the same verdict and bytes (R228, R133, 95_test_vectors.md S26). -/
def Obligations.CaseFlipDecodesTheSame : Prop :=
  ∀ i ∈ decCommands, caseInsensitive i.variant = true → ∀ s u t w : State, u.len = s.len →
    (∀ k < s.operand, u.inUnit k = (if lowerOf (s.inUnit k) = s.inUnit k then upperOf (s.inUnit k)
      else lowerOf (s.inUnit k))) →
    exec i s = .next t → exec i u = .next w →
    w.err = t.err ∧ (t.err = .none → w.rlen = t.rlen ∧
      ∀ j < t.rlen, w.outUnit j = t.outUnit j)

/-- Two texts that are equal with their ignored characters removed decode to the same verdict and bytes (R228, R214, R222). -/
def Obligations.IgnoredCharactersAreSkipped : Prop :=
  ∀ i ∈ decCommands, ∀ s u t w : State,
    s.inputUnits.filter (fun c => !i.record.ignAt c) = u.inputUnits.filter (fun c => !i.record.ignAt c) →
    exec i s = .next t → exec i u = .next w →
    w.err = t.err ∧ (t.err = .none → w.rlen = t.rlen ∧
      ∀ j < t.rlen, w.outUnit j = t.outUnit j)

/-- The verdict depends on five facts of the text; a symbol_error of step 1 on the text up to the invalid character (R259). -/
def Obligations.VerdictDependsOnFiveFacts : Prop :=
  ∀ i ∈ decCommands, ∀ s u t w : State, exec i s = .next t → exec i u = .next w →
    (hasInvalid i.record s.inputUnits = hasInvalid i.record u.inputUnits →
      hasDataAfterPad i.record s.inputUnits = hasDataAfterPad i.record u.inputUnits →
      (dataValues i.record s.inputUnits).length = (dataValues i.record u.inputUnits).length →
      padCountOf i.record s.inputUnits = padCountOf i.record u.inputUnits → t.err = w.err) ∧
    (∀ k, k < s.operand → k < u.operand → (∀ j ≤ k, s.inUnit j = u.inUnit j) →
      classify i.record (s.inUnit k) = .invalid → t.err = .symbolError ∧ w.err = .symbolError)

/-- Leniency: for every DEC command, texts that differ only in the discarded low bits of the last data symbol decode alike (R225, R224). -/
def Obligations.TailBitsAreNotLookedAt : Prop :=
  (∀ i ∈ decCommands, ∀ (s u t w : State) (k : Nat) (x y : Byte), u.len = s.len → k < s.operand →
    (∀ j < s.operand, j ≠ k → u.inUnit j = s.inUnit j) →
    classify i.record (s.inUnit k) = .data x → classify i.record (u.inUnit k) = .data y →
    (∀ j < s.operand, k < j → (classify i.record (s.inUnit j)).isData = false) →
    (∀ tail, tail = (dataValues i.record s.inputUnits).length * i.record.bitsPerSymbol % 8 →
      x.toNat / 2 ^ tail = y.toNat / 2 ^ tail) →
    exec i s = .next t → exec i u = .next w →
    w.err = t.err ∧ (t.err = .none → w.rlen = t.rlen ∧ ∀ j < t.rlen, w.outUnit j = t.outUnit j)) ∧
  ∀ (s : State) (k : Nat), k < 16 → s.len = 4 → s.inUnit 0 = 0x5A#8 →
    s.inUnit 1 = (rom .base64Rfc4648).encAt (32 + k) → s.inUnit 2 = equalsSign → s.inUnit 3 = equalsSign →
    s.decPremises (rom .base64Rfc4648) →
    ∃ t, exec .decB64 s = .next t ∧ t.ended .none ∧ t.rlen = 1 ∧ t.outUnit 0 = 0x66#8

/-- Which bits of the bytes of a full block make each symbol, for 4, 5 and 6 bits per symbol (R103, R104, R105). -/
def Obligations.BlockLayoutBytesToSymbols : Prop :=
  (∀ v, (rom v).bitsPerSymbol = 4 → ∀ B0 : Byte,
    pack (rom v) [B0] = [(B0.extractLsb' 4 4).toNat, (B0.extractLsb' 0 4).toNat]) ∧
  (∀ v, (rom v).bitsPerSymbol = 5 → ∀ B0 B1 B2 B3 B4 : Byte, pack (rom v) [B0, B1, B2, B3, B4] =
    [(B0.extractLsb' 3 5).toNat, (B0.extractLsb' 0 3 ++ B1.extractLsb' 6 2).toNat,
     (B1.extractLsb' 1 5).toNat, (B1.extractLsb' 0 1 ++ B2.extractLsb' 4 4).toNat,
     (B2.extractLsb' 0 4 ++ B3.extractLsb' 7 1).toNat, (B3.extractLsb' 2 5).toNat,
     (B3.extractLsb' 0 2 ++ B4.extractLsb' 5 3).toNat, (B4.extractLsb' 0 5).toNat]) ∧
  (∀ v, (rom v).bitsPerSymbol = 6 → ∀ B0 B1 B2 : Byte, pack (rom v) [B0, B1, B2] =
    [(B0.extractLsb' 2 6).toNat, (B0.extractLsb' 0 2 ++ B1.extractLsb' 4 4).toNat,
     (B1.extractLsb' 0 4 ++ B2.extractLsb' 6 2).toNat, (B2.extractLsb' 0 6).toNat])

/-- Which bits of the symbols of a full block make each byte, for 4, 5 and 6 bits per symbol (R106). -/
def Obligations.BlockLayoutSymbolsToBytes : Prop :=
  (∀ v, (rom v).bitsPerSymbol = 4 → ∀ S0 S1 : BitVec 4,
    unpack (rom v) [S0.toNat, S1.toNat] = [S0 ++ S1]) ∧
  (∀ v, (rom v).bitsPerSymbol = 5 → ∀ S0 S1 S2 S3 S4 S5 S6 S7 : BitVec 5,
    unpack (rom v) [S0.toNat, S1.toNat, S2.toNat, S3.toNat, S4.toNat, S5.toNat, S6.toNat, S7.toNat] =
      [S0 ++ S1.extractLsb' 2 3, S1.extractLsb' 0 2 ++ S2 ++ S3.extractLsb' 4 1,
       S3.extractLsb' 0 4 ++ S4.extractLsb' 1 4, S4.extractLsb' 0 1 ++ S5 ++ S6.extractLsb' 3 2,
       S6.extractLsb' 0 3 ++ S7]) ∧
  (∀ v, (rom v).bitsPerSymbol = 6 → ∀ S0 S1 S2 S3 : BitVec 6,
    unpack (rom v) [S0.toNat, S1.toNat, S2.toNat, S3.toNat] =
      [S0 ++ S1.extractLsb' 4 2, S1.extractLsb' 0 4 ++ S2.extractLsb' 2 4, S2.extractLsb' 0 2 ++ S3])

/-- The mappers are inverse: unpack(pack(B)) = B for every group of 1 to bbc bytes (R198, R227). -/
def Obligations.UnpackOfPackIsTheGroup : Prop :=
  ∀ (v : Variant) (B : List Byte), 1 ≤ B.length → B.length ≤ (rom v).blockBytes →
    unpack (rom v) (pack (rom v) B) = B

/-- All eight records: block invariant, has_pad exactly unless forbidden, disjoint classes, dec inverts enc (R97, R101). -/
def Obligations.RecordsAreWellFormed : Prop :=
  ∀ v : Variant,
    (((rom v).bitsPerSymbol = 4 ∧ (rom v).blockBytes = 1 ∧ (rom v).blockSymbols = 2) ∨
      ((rom v).bitsPerSymbol = 5 ∧ (rom v).blockBytes = 5 ∧ (rom v).blockSymbols = 8) ∨
      ((rom v).bitsPerSymbol = 6 ∧ (rom v).blockBytes = 3 ∧ (rom v).blockSymbols = 4)) ∧
    (rom v).blockSymbols * (rom v).bitsPerSymbol = (rom v).blockBytes * 8 ∧
    ((rom v).hasPad = false ↔ (rom v).padPolicy = .forbidden) ∧
    (∀ c : Byte,
      ¬ ((rom v).ignAt c = true ∧ (rom v).hasPad = true ∧ c = (rom v).padSymbol) ∧
      ¬ ((rom v).ignAt c = true ∧ (rom v).decAt c ≠ invalidEntry) ∧
      ¬ ((rom v).hasPad = true ∧ c = (rom v).padSymbol ∧ (rom v).decAt c ≠ invalidEntry)) ∧
    (∀ k < 2 ^ (rom v).bitsPerSymbol, ((rom v).decAt ((rom v).encAt k)).toNat = k)

/-- Each dec table of the ROM is build_dec of the forward string, with case variants where insensitive (R132, R133, R149). -/
def Obligations.ReverseTablesAreWhatTheBuilderGives : Prop :=
  ∀ v : Variant,
    (rom v).enc.take (2 ^ (rom v).bitsPerSymbol) = symbolString v ∧
    (rom v).dec = buildDec (symbolString v) (caseInsensitive v)

/-- Controls, space and units from 0x7F on are invalid everywhere; = pads or is invalid; - and Crockford letters (R134, R135, R137, R138). -/
def Obligations.ClassesOfSpecialCharacters : Prop :=
  (∀ (v : Variant) (c : Byte), c.toNat < 0x21 ∨ 0x7F ≤ c.toNat → classify (rom v) c = .invalid) ∧
  (∀ v : Variant, classify (rom v) 0x3D#8 =
    if (rom v).padPolicy = .forbidden then .invalid else .pad) ∧
  (∀ v : Variant, classify (rom v) 0x2D#8 = (match v with
    | .base32Crockford => .ignored
    | .base64Url | .base64UrlUnpadded => .data 62#8
    | _ => .invalid)) ∧
  (∀ c ∈ [0x49#8, 0x69#8, 0x4C#8, 0x6C#8, 0x4F#8, 0x6F#8, 0x55#8, 0x75#8],
    classify (rom .base32Crockford) c = .invalid)

/-- The invariant of safe runs holds at reset (R40, R33). -/
def Obligations.InvariantHoldsAtReset : Prop :=
  State.reset.Inv

/-- Every step from a state meeting the invariant gives a state meeting it (what it says of a running call is the model's choice: logs 10, 14, 21) (R22, R23, R24, R33, R35, R178, R284, R285, R255, notes/assumptions/10.md, notes/assumptions/14.md, notes/assumptions/21.md). -/
def Obligations.EveryStepKeepsTheInvariant : Prop :=
  ∀ s t : State, s.Inv → step s = .next t → t.Inv

/-- From a state meeting the invariant a running call ends when the engine moves, whatever the command (in one step: the model's choice, log 14, as R285 allows) (R285, R286, R241, notes/assumptions/14.md). -/
def Obligations.AStartedCallEnds : Prop :=
  (∀ s : State, s.Inv → s.busy = true → s.engineTurn = true →
    ∃ t, step s = .next t ∧ t.busy = false ∧ t.done = true ∧ t.phase = .idle) ∧
  ∀ s : State, s.pending = [] ∨ (∃ rest, s.pending = .waitDone :: rest) → s.engineTurn = true

/-- While busy, host writes of CMD and LEN and accesses to units of IN and OUT are refused (that they meet the call still running: the model's choice, log 14) (R290, R25, notes/assumptions/14.md). -/
def Obligations.BusyHazardsAreRefused : Prop :=
  ∀ (s : State) (rest : List HostAction), s.busy = true →
    (∀ w, s.pending = .writeCmd w :: rest → step s = .refused .registerWriteWhileBusy) ∧
    (∀ n, s.pending = .writeLen n :: rest → step s = .refused .registerWriteWhileBusy) ∧
    (∀ i v, s.pending = .writeIn i v :: rest → step s = .refused .bufferAccessWhileBusy) ∧
    (∀ i, s.pending = .readIn i :: rest → step s = .refused .bufferAccessWhileBusy) ∧
    (∀ j v, s.pending = .writeOut j v :: rest → step s = .refused .bufferAccessWhileBusy) ∧
    (∀ j, s.pending = .readOut j :: rest → step s = .refused .bufferAccessWhileBusy)

/-- Reads of STATUS, CMD and LEN return the register and change nothing, busy or idle; RLEN likewise when idle (the order with a call's end is free: log 14) (R73, R290, R25, R286, notes/assumptions/14.md). -/
def Obligations.RegisterReadsHaveNoSideEffect : Prop :=
  ∀ (s : State) (rest : List HostAction),
    (∀ (a : HostAction) (r : Reading),
      (a = .readStatus ∧ r = .status s.status) ∨ (a = .readCmd ∧ r = .cmd s.cmd) ∨
        (a = .readLen ∧ r = .len s.len) → s.pending = a :: rest →
      step s = .next { s with pending := rest, readings := r :: s.readings } ∨
        (s.busy = true ∧ step s = exec (decodeCmd s.cmd) s)) ∧
    (s.pending = .readRlen :: rest → s.busy = false →
      step s = .next { s with pending := rest, readings := .rlen s.rlen :: s.readings }) ∧
    (s.pending = .readRlen :: rest → s.busy = true →
      (∃ x < 2 ^ Config.lenW, step s =
          .next { s with pending := rest, readings := .rlen x :: s.readings, draws := s.draws + 1 }) ∨
        step s = exec (decodeCmd s.cmd) s)

/-- While idle, a host write changes LEN, or one unit of IN, or one unit of OUT, and nothing else (one memory under both: the model's choice, log 6) (R22, R25, R61, R62, notes/assumptions/6.md, notes/assumptions/20.md). -/
def Obligations.HostWritesWhileIdle : Prop :=
  ∀ (s : State) (rest : List HostAction), s.busy = false →
    (∀ n, s.pending = .writeLen n :: rest →
      step s = .next { s with pending := rest, len := n % 2 ^ Config.lenW }) ∧
    (∀ i v, s.pending = .writeIn i v :: rest → ∃ t, step s = .next t ∧
      t = { s with pending := rest, mem := t.mem } ∧ t.inUnit i = v ∧
      ∀ a, a ≠ s.inAt + i → t.mem.read a = s.mem.read a) ∧
    (∀ j v, s.pending = .writeOut j v :: rest → ∃ t, step s = .next t ∧
      t = { s with pending := rest, mem := t.mem } ∧ t.outUnit j = v ∧
      ∀ a, a ≠ s.outAt + j → t.mem.read a = s.mem.read a)

/-- While idle, a host read of a unit of IN or OUT returns it and changes nothing (R25, R63, R288). -/
def Obligations.HostReadsOfUnitsWhileIdle : Prop :=
  ∀ (s : State) (rest : List HostAction), s.busy = false →
    (∀ i, s.pending = .readIn i :: rest →
      step s = .next { s with pending := rest, readings := .inUnit i (s.inUnit i) :: s.readings }) ∧
    (∀ j, s.pending = .readOut j :: rest →
      step s = .next { s with pending := rest, readings := .outUnit j (s.outUnit j) :: s.readings })

/-- The last step of decode_<variant>: OUT[0 .. RLEN-1] is read next when the STATUS read has err = none, and nothing when it has an error (R111, R110, notes/assumptions/2.md). -/
def Obligations.DecodeReturnsItsUnitsOnlyOnSuccess : Prop :=
  ∀ (s : State) (rest : List HostAction) (v : BitVec 4) (n : Nat) (before : List Reading),
    s.pending = .returnUnits :: rest → s.readings = .rlen n :: .status v :: before →
    (v.extractLsb' 2 2 = 0#2 →
      step s = .next { s with pending := (List.range n).map (fun j => .readOut j) ++ rest }) ∧
    (v.extractLsb' 2 2 ≠ 0#2 → step s = .next { s with pending := rest })

/-- Between the end of a call and the next host action nothing changes by itself (R286). -/
def Obligations.NothingChangesBetweenCalls : Prop :=
  ∀ s : State, s.busy = false → s.pending = [] → step s = .next s

/-- A call's result is a function of the command, LEN and IN[0 .. LEN-1]: earlier calls leave no trace (R287, R38). -/
def Obligations.CallsAreIndependent : Prop :=
  ∀ (i : Instr) (s u t w : State), u.len = s.len → (∀ k < s.operand, u.inUnit k = s.inUnit k) →
    exec i s = .next t → exec i u = .next w →
    w.err = t.err ∧ (t.err = .none → w.rlen = t.rlen ∧
      (i.op = .enc ∨ i.op = .dec → ∀ j < t.rlen, w.outUnit j = t.outUnit j))

/-- STATUS as a word: busy is bit 0, done bit 1, err bits 3:2 with codes 0 to 3; 0x0 at reset, 0x1 while a call runs, 0x2, 0x6, 0xA, 0xE at its end (R23, R95, R250, R254, R284, R40, 95_test_vectors.md part 7). -/
def Obligations.StatusWordOfEachOutcome : Prop :=
  (∀ s : State, s.status.toNat =
    4 * (match s.err with
      | .none => 0 | .symbolError => 1 | .invalidInputLengthError => 2 | .paddingError => 3) +
      2 * (if s.done then 1 else 0) + (if s.busy then 1 else 0)) ∧
  State.reset.status = 0x0#4 ∧
  (∀ (s t : State) (w : BitVec 5) (rest : List HostAction), s.busy = false → s.pending = .writeCmd w :: rest →
    step s = .next t → t.status = 0x1#4) ∧
  (∀ (i : Instr) (s t : State), exec i s = .next t → t.status = (match t.err with
    | .none => 0x2#4 | .symbolError => 0x6#4 | .invalidInputLengthError => 0xA#4 | .paddingError => 0xE#4)) ∧
  ∀ (s : State) (rest : List HostAction), s.busy = false → s.pending = .readStatus :: rest →
    ∃ t, step s = .next t ∧ t.readings = .status s.status :: s.readings
end

