-- ==== Sys2Proof/Laws/Memory.lean ====
section
/-! SUPPORT. The laws of memory: read after write, and that a write keeps the canonical form. -/

namespace Sys2Proof.Machine

@[simp] theorem Memory.read_nil (k : Nat) : Memory.read [] k = none := rfl

/-- A read after a write: the unit written at its place, the old one elsewhere. -/
theorem Memory.read_write (m : Memory) (k j : Nat) (v : Byte) :
    (m.write k v).read j = if j = k then some v else m.read j := by
  induction m with
  | nil => rfl
  | cons c m ih =>
    simp only [Memory.write]
    split
    · rfl
    · split <;> simp only [Memory.read]
      · grind
      · rw [ih]; grind

@[simp] theorem Memory.read_write_same (m : Memory) (k : Nat) (v : Byte) : (m.write k v).read k = some v := by
  simp [Memory.read_write]

theorem Memory.read_write_other (m : Memory) {k j : Nat} (v : Byte) (h : j ≠ k) :
    (m.write k v).read j = m.read j := by simp [Memory.read_write, h]

/-- What is listed after a write: the pair written, or a pair listed before. -/
theorem Memory.mem_write {m : Memory} {k : Nat} {v : Byte} {c : Host.Cell} (h : c ∈ m.write k v) :
    c = (k, v) ∨ c ∈ m := by
  induction m with
  | nil => simpa [Memory.write] using h
  | cons a m ih =>
    simp only [Memory.write] at h
    split at h
    · simpa using h
    · split at h
      · simp only [List.mem_cons] at h ⊢; grind
      · simp only [List.mem_cons] at h ⊢; grind

/-- A write keeps the canonical form. -/
theorem Memory.write_wf {m : Memory} (k : Nat) (v : Byte) (h : m.wf) : (m.write k v).wf := by
  induction m with
  | nil => simp [Memory.wf, Memory.write]
  | cons a m ih =>
    obtain ⟨hlt, hm⟩ := List.pairwise_cons.1 h
    simp only [Memory.write]
    split
    case isTrue hk =>
      refine List.pairwise_cons.2 ⟨fun c hc => ?_, h⟩
      rcases List.mem_cons.1 hc with rfl | hc
      · exact hk
      · exact Nat.lt_trans hk (hlt c hc)
    case isFalse hk =>
      split
      case isTrue heq => exact List.pairwise_cons.2 ⟨fun c hc => heq ▸ hlt c hc, hm⟩
      case isFalse hne =>
        refine List.pairwise_cons.2 ⟨fun c hc => ?_, ih hm⟩
        rcases Memory.mem_write hc with rfl | hc
        · show a.1 < k; omega
        · exact hlt c hc

/-- A place below every listed one reads as nothing. -/
theorem Memory.read_eq_none {m : Memory} {k : Nat} (h : ∀ c ∈ m, k < c.1) : m.read k = none := by
  induction m with
  | nil => rfl
  | cons a m ih =>
    have ha := h a List.mem_cons_self
    simp only [Memory.read]
    rw [if_neg (by omega), ih fun c hc => h c (List.mem_cons_of_mem _ hc)]

/-- Two memories in canonical form with the same units are the same data. -/
theorem Memory.eq_of_read {m n : Memory} (hm : m.wf) (hn : n.wf) (h : ∀ k, m.read k = n.read k) : m = n := by
  induction m generalizing n with
  | nil =>
    cases n with
    | nil => rfl
    | cons b n => have := h b.1; simp [Memory.read] at this
  | cons a m ih =>
    obtain ⟨ha, hm'⟩ := List.pairwise_cons.1 hm
    cases n with
    | nil => have := h a.1; simp [Memory.read] at this
    | cons b n =>
      obtain ⟨hb, hn'⟩ := List.pairwise_cons.1 hn
      have key : a.1 = b.1 := by
        rcases Nat.lt_trichotomy a.1 b.1 with hlt | heq | hgt
        · have h1 := h a.1
          rw [Memory.read_eq_none (m := b :: n) (by
            intro c hc; rcases List.mem_cons.1 hc with rfl | hc
            · exact hlt
            · exact Nat.lt_trans hlt (hb c hc))] at h1
          simp [Memory.read] at h1
        · exact heq
        · have h1 := h b.1
          rw [Memory.read_eq_none (m := a :: m) (by
            intro c hc; rcases List.mem_cons.1 hc with rfl | hc
            · exact hgt
            · exact Nat.lt_trans hgt (ha c hc))] at h1
          simp [Memory.read] at h1
      have hv : a = b := by
        have h1 := h a.1
        simp only [Memory.read, key, if_true, Option.some.injEq] at h1
        exact Prod.ext key h1
      subst hv
      refine congrArg (a :: ·) (ih hm' hn' fun k => ?_)
      have h1 := h k
      simp only [Memory.read] at h1
      split at h1
      case isTrue hk =>
        rw [hk, Memory.read_eq_none ha, Memory.read_eq_none hb]
      case isFalse => exact h1

/-- Reset lists nothing, in canonical form. -/
theorem State.reset_mem_wf : State.reset.mem.wf := by decide

/-! Units of the host's memory, and of IN and OUT in it. -/

theorem State.unitAt_store (s : State) (a b : Nat) (v : Byte) :
    (s.store a v).unitAt b = if b = a then v else s.unitAt b := by
  simp only [State.unitAt, State.store, Memory.read_write]; split <;> rfl

theorem State.store_wf {s : State} (a : Nat) (v : Byte) (h : s.mem.wf) : (s.store a v).mem.wf :=
  Memory.write_wf a v h

/-- Equal memory reads as equal units. -/
theorem State.unitAt_congr {s t : State} {a : Nat} (h : t.mem.read a = s.mem.read a) : t.unitAt a = s.unitAt a := by
  simp [State.unitAt, h]

/-- A listed place reads as listed. -/
theorem State.unitAt_of_read {s : State} {a : Nat} {v : Byte} (h : s.mem.read a = some v) : s.unitAt a = v := by
  simp [State.unitAt, h]

/-- The memory test for overlap says that some unit is in both stretches (20_memory.md R69). -/
theorem State.overlapsFrame_iff (s : State) (frame : Nat) : s.overlapsFrame frame = true ↔ s.sharesUnits frame := by
  have ho : s.operand = s.len := rfl
  simp only [State.overlapsFrame, State.sharesUnits, ho, decide_eq_true_eq]
  constructor
  · intro h
    exact ⟨max s.inAt s.outAt - s.inAt, by omega, max s.inAt s.outAt - s.outAt, by omega, by omega⟩
  · rintro ⟨i, hi, j, hj, h⟩
    omega

end Sys2Proof.Machine
end

