-- ==== Sys2Proof/Laws/State.lean ====
section
/-! SUPPORT. One lemma per field per update of the state, so that no proof unfolds an update. -/

namespace Sys2Proof.Machine

variable (s : State)

@[simp] theorem State.store_cmd (a : Nat) (v : Byte) : (s.store a v).cmd = s.cmd := rfl
@[simp] theorem State.store_len (a : Nat) (v : Byte) : (s.store a v).len = s.len := rfl
@[simp] theorem State.store_status (a : Nat) (v : Byte) : (s.store a v).status = s.status := rfl
@[simp] theorem State.store_rlen (a : Nat) (v : Byte) : (s.store a v).rlen = s.rlen := rfl
@[simp] theorem State.store_phase (a : Nat) (v : Byte) : (s.store a v).phase = s.phase := rfl
@[simp] theorem State.store_idx (a : Nat) (v : Byte) : (s.store a v).idx = s.idx := rfl
@[simp] theorem State.store_grp (a : Nat) (v : Byte) : (s.store a v).grp = s.grp := rfl
@[simp] theorem State.store_grpN (a : Nat) (v : Byte) : (s.store a v).grpN = s.grpN := rfl
@[simp] theorem State.store_acc (a : Nat) (v : Byte) : (s.store a v).acc = s.acc := rfl
@[simp] theorem State.store_accBits (a : Nat) (v : Byte) : (s.store a v).accBits = s.accBits := rfl
@[simp] theorem State.store_dataCount (a : Nat) (v : Byte) : (s.store a v).dataCount = s.dataCount := rfl
@[simp] theorem State.store_padCount (a : Nat) (v : Byte) : (s.store a v).padCount = s.padCount := rfl
@[simp] theorem State.store_padSeen (a : Nat) (v : Byte) : (s.store a v).padSeen = s.padSeen := rfl
@[simp] theorem State.store_dataAfterPad (a : Nat) (v : Byte) : (s.store a v).dataAfterPad = s.dataAfterPad := rfl
@[simp] theorem State.store_mem (a : Nat) (v : Byte) : (s.store a v).mem = s.mem.write a v := rfl
@[simp] theorem State.store_inAt (a : Nat) (v : Byte) : (s.store a v).inAt = s.inAt := rfl
@[simp] theorem State.store_outAt (a : Nat) (v : Byte) : (s.store a v).outAt = s.outAt := rfl
@[simp] theorem State.store_outCap (a : Nat) (v : Byte) : (s.store a v).outCap = s.outCap := rfl
@[simp] theorem State.store_pending (a : Nat) (v : Byte) : (s.store a v).pending = s.pending := rfl
@[simp] theorem State.store_readings (a : Nat) (v : Byte) : (s.store a v).readings = s.readings := rfl
@[simp] theorem State.store_draws (a : Nat) (v : Byte) : (s.store a v).draws = s.draws := rfl

@[simp] theorem State.append_cmd (v : Byte) : (s.append v).cmd = s.cmd := rfl
@[simp] theorem State.append_len (v : Byte) : (s.append v).len = s.len := rfl
@[simp] theorem State.append_status (v : Byte) : (s.append v).status = s.status := rfl
@[simp] theorem State.append_rlen (v : Byte) : (s.append v).rlen = s.rlen + 1 := rfl
@[simp] theorem State.append_phase (v : Byte) : (s.append v).phase = s.phase := rfl
@[simp] theorem State.append_idx (v : Byte) : (s.append v).idx = s.idx := rfl
@[simp] theorem State.append_grp (v : Byte) : (s.append v).grp = s.grp := rfl
@[simp] theorem State.append_grpN (v : Byte) : (s.append v).grpN = s.grpN := rfl
@[simp] theorem State.append_acc (v : Byte) : (s.append v).acc = s.acc := rfl
@[simp] theorem State.append_accBits (v : Byte) : (s.append v).accBits = s.accBits := rfl
@[simp] theorem State.append_dataCount (v : Byte) : (s.append v).dataCount = s.dataCount := rfl
@[simp] theorem State.append_padCount (v : Byte) : (s.append v).padCount = s.padCount := rfl
@[simp] theorem State.append_padSeen (v : Byte) : (s.append v).padSeen = s.padSeen := rfl
@[simp] theorem State.append_dataAfterPad (v : Byte) : (s.append v).dataAfterPad = s.dataAfterPad := rfl
@[simp] theorem State.append_mem (v : Byte) : (s.append v).mem = s.mem.write (s.outAt + s.rlen) v := rfl
@[simp] theorem State.append_inAt (v : Byte) : (s.append v).inAt = s.inAt := rfl
@[simp] theorem State.append_outAt (v : Byte) : (s.append v).outAt = s.outAt := rfl
@[simp] theorem State.append_outCap (v : Byte) : (s.append v).outCap = s.outCap := rfl
@[simp] theorem State.append_pending (v : Byte) : (s.append v).pending = s.pending := rfl
@[simp] theorem State.append_readings (v : Byte) : (s.append v).readings = s.readings := rfl
@[simp] theorem State.append_draws (v : Byte) : (s.append v).draws = s.draws := rfl

@[simp] theorem State.countPad_cmd : (s.countPad).cmd = s.cmd := rfl
@[simp] theorem State.countPad_len : (s.countPad).len = s.len := rfl
@[simp] theorem State.countPad_status : (s.countPad).status = s.status := rfl
@[simp] theorem State.countPad_rlen : (s.countPad).rlen = s.rlen := rfl
@[simp] theorem State.countPad_phase : (s.countPad).phase = s.phase := rfl
@[simp] theorem State.countPad_idx : (s.countPad).idx = s.idx := rfl
@[simp] theorem State.countPad_grp : (s.countPad).grp = s.grp := rfl
@[simp] theorem State.countPad_grpN : (s.countPad).grpN = s.grpN := rfl
@[simp] theorem State.countPad_acc : (s.countPad).acc = s.acc := rfl
@[simp] theorem State.countPad_accBits : (s.countPad).accBits = s.accBits := rfl
@[simp] theorem State.countPad_dataCount : (s.countPad).dataCount = s.dataCount := rfl
@[simp] theorem State.countPad_padCount : (s.countPad).padCount = s.padCount + 1 := rfl
@[simp] theorem State.countPad_padSeen : (s.countPad).padSeen = true := rfl
@[simp] theorem State.countPad_dataAfterPad : (s.countPad).dataAfterPad = s.dataAfterPad := rfl
@[simp] theorem State.countPad_mem : (s.countPad).mem = s.mem := rfl
@[simp] theorem State.countPad_inAt : (s.countPad).inAt = s.inAt := rfl
@[simp] theorem State.countPad_outAt : (s.countPad).outAt = s.outAt := rfl
@[simp] theorem State.countPad_outCap : (s.countPad).outCap = s.outCap := rfl
@[simp] theorem State.countPad_pending : (s.countPad).pending = s.pending := rfl
@[simp] theorem State.countPad_readings : (s.countPad).readings = s.readings := rfl
@[simp] theorem State.countPad_draws : (s.countPad).draws = s.draws := rfl

@[simp] theorem State.countData_cmd : (s.countData).cmd = s.cmd := rfl
@[simp] theorem State.countData_len : (s.countData).len = s.len := rfl
@[simp] theorem State.countData_status : (s.countData).status = s.status := rfl
@[simp] theorem State.countData_rlen : (s.countData).rlen = s.rlen := rfl
@[simp] theorem State.countData_phase : (s.countData).phase = s.phase := rfl
@[simp] theorem State.countData_idx : (s.countData).idx = s.idx := rfl
@[simp] theorem State.countData_grp : (s.countData).grp = s.grp := rfl
@[simp] theorem State.countData_grpN : (s.countData).grpN = s.grpN := rfl
@[simp] theorem State.countData_acc : (s.countData).acc = s.acc := rfl
@[simp] theorem State.countData_accBits : (s.countData).accBits = s.accBits := rfl
@[simp] theorem State.countData_dataCount : (s.countData).dataCount = s.dataCount + 1 := rfl
@[simp] theorem State.countData_padCount : (s.countData).padCount = s.padCount := rfl
@[simp] theorem State.countData_padSeen : (s.countData).padSeen = s.padSeen := rfl
@[simp] theorem State.countData_dataAfterPad : (s.countData).dataAfterPad = (s.dataAfterPad || s.padSeen) := rfl
@[simp] theorem State.countData_mem : (s.countData).mem = s.mem := rfl
@[simp] theorem State.countData_inAt : (s.countData).inAt = s.inAt := rfl
@[simp] theorem State.countData_outAt : (s.countData).outAt = s.outAt := rfl
@[simp] theorem State.countData_outCap : (s.countData).outCap = s.outCap := rfl
@[simp] theorem State.countData_pending : (s.countData).pending = s.pending := rfl
@[simp] theorem State.countData_readings : (s.countData).readings = s.readings := rfl
@[simp] theorem State.countData_draws : (s.countData).draws = s.draws := rfl

@[simp] theorem State.nextUnit_cmd : (s.nextUnit).cmd = s.cmd := rfl
@[simp] theorem State.nextUnit_len : (s.nextUnit).len = s.len := rfl
@[simp] theorem State.nextUnit_status : (s.nextUnit).status = s.status := rfl
@[simp] theorem State.nextUnit_rlen : (s.nextUnit).rlen = s.rlen := rfl
@[simp] theorem State.nextUnit_phase : (s.nextUnit).phase = s.phase := rfl
@[simp] theorem State.nextUnit_idx : (s.nextUnit).idx = s.idx + 1 := rfl
@[simp] theorem State.nextUnit_grp : (s.nextUnit).grp = s.grp := rfl
@[simp] theorem State.nextUnit_grpN : (s.nextUnit).grpN = s.grpN := rfl
@[simp] theorem State.nextUnit_acc : (s.nextUnit).acc = s.acc := rfl
@[simp] theorem State.nextUnit_accBits : (s.nextUnit).accBits = s.accBits := rfl
@[simp] theorem State.nextUnit_dataCount : (s.nextUnit).dataCount = s.dataCount := rfl
@[simp] theorem State.nextUnit_padCount : (s.nextUnit).padCount = s.padCount := rfl
@[simp] theorem State.nextUnit_padSeen : (s.nextUnit).padSeen = s.padSeen := rfl
@[simp] theorem State.nextUnit_dataAfterPad : (s.nextUnit).dataAfterPad = s.dataAfterPad := rfl
@[simp] theorem State.nextUnit_mem : (s.nextUnit).mem = s.mem := rfl
@[simp] theorem State.nextUnit_inAt : (s.nextUnit).inAt = s.inAt := rfl
@[simp] theorem State.nextUnit_outAt : (s.nextUnit).outAt = s.outAt := rfl
@[simp] theorem State.nextUnit_outCap : (s.nextUnit).outCap = s.outCap := rfl
@[simp] theorem State.nextUnit_pending : (s.nextUnit).pending = s.pending := rfl
@[simp] theorem State.nextUnit_readings : (s.nextUnit).readings = s.readings := rfl
@[simp] theorem State.nextUnit_draws : (s.nextUnit).draws = s.draws := rfl

@[simp] theorem State.beginEmit_cmd : (s.beginEmit).cmd = s.cmd := rfl
@[simp] theorem State.beginEmit_len : (s.beginEmit).len = s.len := rfl
@[simp] theorem State.beginEmit_status : (s.beginEmit).status = s.status := rfl
@[simp] theorem State.beginEmit_rlen : (s.beginEmit).rlen = 0 := rfl
@[simp] theorem State.beginEmit_phase : (s.beginEmit).phase = .emit := rfl
@[simp] theorem State.beginEmit_idx : (s.beginEmit).idx = 0 := rfl
@[simp] theorem State.beginEmit_grp : (s.beginEmit).grp = s.grp := rfl
@[simp] theorem State.beginEmit_grpN : (s.beginEmit).grpN = s.grpN := rfl
@[simp] theorem State.beginEmit_acc : (s.beginEmit).acc = 0 := rfl
@[simp] theorem State.beginEmit_accBits : (s.beginEmit).accBits = 0 := rfl
@[simp] theorem State.beginEmit_dataCount : (s.beginEmit).dataCount = s.dataCount := rfl
@[simp] theorem State.beginEmit_padCount : (s.beginEmit).padCount = s.padCount := rfl
@[simp] theorem State.beginEmit_padSeen : (s.beginEmit).padSeen = s.padSeen := rfl
@[simp] theorem State.beginEmit_dataAfterPad : (s.beginEmit).dataAfterPad = s.dataAfterPad := rfl
@[simp] theorem State.beginEmit_mem : (s.beginEmit).mem = s.mem := rfl
@[simp] theorem State.beginEmit_inAt : (s.beginEmit).inAt = s.inAt := rfl
@[simp] theorem State.beginEmit_outAt : (s.beginEmit).outAt = s.outAt := rfl
@[simp] theorem State.beginEmit_outCap : (s.beginEmit).outCap = s.outCap := rfl
@[simp] theorem State.beginEmit_pending : (s.beginEmit).pending = s.pending := rfl
@[simp] theorem State.beginEmit_readings : (s.beginEmit).readings = s.readings := rfl
@[simp] theorem State.beginEmit_draws : (s.beginEmit).draws = s.draws := rfl

@[simp] theorem State.startValues_cmd : (s.startValues).cmd = s.cmd := rfl
@[simp] theorem State.startValues_len : (s.startValues).len = s.len := rfl
@[simp] theorem State.startValues_status : (s.startValues).status = s.status := rfl
@[simp] theorem State.startValues_rlen : (s.startValues).rlen = 0 := rfl
@[simp] theorem State.startValues_phase : (s.startValues).phase = s.phase := rfl
@[simp] theorem State.startValues_idx : (s.startValues).idx = 0 := rfl
@[simp] theorem State.startValues_grp : (s.startValues).grp = 0 := rfl
@[simp] theorem State.startValues_grpN : (s.startValues).grpN = 0 := rfl
@[simp] theorem State.startValues_acc : (s.startValues).acc = 0 := rfl
@[simp] theorem State.startValues_accBits : (s.startValues).accBits = 0 := rfl
@[simp] theorem State.startValues_dataCount : (s.startValues).dataCount = 0 := rfl
@[simp] theorem State.startValues_padCount : (s.startValues).padCount = 0 := rfl
@[simp] theorem State.startValues_padSeen : (s.startValues).padSeen = false := rfl
@[simp] theorem State.startValues_dataAfterPad : (s.startValues).dataAfterPad = false := rfl
@[simp] theorem State.startValues_mem : (s.startValues).mem = s.mem := rfl
@[simp] theorem State.startValues_inAt : (s.startValues).inAt = s.inAt := rfl
@[simp] theorem State.startValues_outAt : (s.startValues).outAt = s.outAt := rfl
@[simp] theorem State.startValues_outCap : (s.startValues).outCap = s.outCap := rfl
@[simp] theorem State.startValues_pending : (s.startValues).pending = s.pending := rfl
@[simp] theorem State.startValues_readings : (s.startValues).readings = s.readings := rfl
@[simp] theorem State.startValues_draws : (s.startValues).draws = s.draws := rfl

@[simp] theorem State.startPhase_cmd (p : Phase) : (s.startPhase p).cmd = s.cmd := rfl
@[simp] theorem State.startPhase_len (p : Phase) : (s.startPhase p).len = s.len := rfl
@[simp] theorem State.startPhase_status (p : Phase) : (s.startPhase p).status = s.status := rfl
@[simp] theorem State.startPhase_rlen (p : Phase) : (s.startPhase p).rlen = 0 := rfl
@[simp] theorem State.startPhase_phase (p : Phase) : (s.startPhase p).phase = p := rfl
@[simp] theorem State.startPhase_idx (p : Phase) : (s.startPhase p).idx = 0 := rfl
@[simp] theorem State.startPhase_grp (p : Phase) : (s.startPhase p).grp = 0 := rfl
@[simp] theorem State.startPhase_grpN (p : Phase) : (s.startPhase p).grpN = 0 := rfl
@[simp] theorem State.startPhase_acc (p : Phase) : (s.startPhase p).acc = 0 := rfl
@[simp] theorem State.startPhase_accBits (p : Phase) : (s.startPhase p).accBits = 0 := rfl
@[simp] theorem State.startPhase_dataCount (p : Phase) : (s.startPhase p).dataCount = 0 := rfl
@[simp] theorem State.startPhase_padCount (p : Phase) : (s.startPhase p).padCount = 0 := rfl
@[simp] theorem State.startPhase_padSeen (p : Phase) : (s.startPhase p).padSeen = false := rfl
@[simp] theorem State.startPhase_dataAfterPad (p : Phase) : (s.startPhase p).dataAfterPad = false := rfl
@[simp] theorem State.startPhase_mem (p : Phase) : (s.startPhase p).mem = s.mem := rfl
@[simp] theorem State.startPhase_inAt (p : Phase) : (s.startPhase p).inAt = s.inAt := rfl
@[simp] theorem State.startPhase_outAt (p : Phase) : (s.startPhase p).outAt = s.outAt := rfl
@[simp] theorem State.startPhase_outCap (p : Phase) : (s.startPhase p).outCap = s.outCap := rfl
@[simp] theorem State.startPhase_pending (p : Phase) : (s.startPhase p).pending = s.pending := rfl
@[simp] theorem State.startPhase_readings (p : Phase) : (s.startPhase p).readings = s.readings := rfl
@[simp] theorem State.startPhase_draws (p : Phase) : (s.startPhase p).draws = s.draws := rfl

@[simp] theorem State.answer_cmd (n : Nat) : (s.answer n).cmd = s.cmd := rfl
@[simp] theorem State.answer_len (n : Nat) : (s.answer n).len = s.len := rfl
@[simp] theorem State.answer_status (n : Nat) : (s.answer n).status = s.status := rfl
@[simp] theorem State.answer_rlen (n : Nat) : (s.answer n).rlen = n := rfl
@[simp] theorem State.answer_phase (n : Nat) : (s.answer n).phase = s.phase := rfl
@[simp] theorem State.answer_idx (n : Nat) : (s.answer n).idx = 0 := rfl
@[simp] theorem State.answer_grp (n : Nat) : (s.answer n).grp = 0 := rfl
@[simp] theorem State.answer_grpN (n : Nat) : (s.answer n).grpN = 0 := rfl
@[simp] theorem State.answer_acc (n : Nat) : (s.answer n).acc = 0 := rfl
@[simp] theorem State.answer_accBits (n : Nat) : (s.answer n).accBits = 0 := rfl
@[simp] theorem State.answer_dataCount (n : Nat) : (s.answer n).dataCount = 0 := rfl
@[simp] theorem State.answer_padCount (n : Nat) : (s.answer n).padCount = 0 := rfl
@[simp] theorem State.answer_padSeen (n : Nat) : (s.answer n).padSeen = false := rfl
@[simp] theorem State.answer_dataAfterPad (n : Nat) : (s.answer n).dataAfterPad = false := rfl
@[simp] theorem State.answer_mem (n : Nat) : (s.answer n).mem = s.mem := rfl
@[simp] theorem State.answer_inAt (n : Nat) : (s.answer n).inAt = s.inAt := rfl
@[simp] theorem State.answer_outAt (n : Nat) : (s.answer n).outAt = s.outAt := rfl
@[simp] theorem State.answer_outCap (n : Nat) : (s.answer n).outCap = s.outCap := rfl
@[simp] theorem State.answer_pending (n : Nat) : (s.answer n).pending = s.pending := rfl
@[simp] theorem State.answer_readings (n : Nat) : (s.answer n).readings = s.readings := rfl
@[simp] theorem State.answer_draws (n : Nat) : (s.answer n).draws = s.draws := rfl

@[simp] theorem State.startCall_cmd (w : BitVec 5) : (s.startCall w).cmd = w := rfl
@[simp] theorem State.startCall_len (w : BitVec 5) : (s.startCall w).len = s.len := rfl
@[simp] theorem State.startCall_status (w : BitVec 5) : (s.startCall w).status = statusBusy := rfl
@[simp] theorem State.startCall_rlen (w : BitVec 5) : (s.startCall w).rlen = 0 := rfl
@[simp] theorem State.startCall_phase (w : BitVec 5) : (s.startCall w).phase = firstPhase (decodeCmd w).op := rfl
@[simp] theorem State.startCall_idx (w : BitVec 5) : (s.startCall w).idx = 0 := rfl
@[simp] theorem State.startCall_grp (w : BitVec 5) : (s.startCall w).grp = 0 := rfl
@[simp] theorem State.startCall_grpN (w : BitVec 5) : (s.startCall w).grpN = 0 := rfl
@[simp] theorem State.startCall_acc (w : BitVec 5) : (s.startCall w).acc = 0 := rfl
@[simp] theorem State.startCall_accBits (w : BitVec 5) : (s.startCall w).accBits = 0 := rfl
@[simp] theorem State.startCall_dataCount (w : BitVec 5) : (s.startCall w).dataCount = 0 := rfl
@[simp] theorem State.startCall_padCount (w : BitVec 5) : (s.startCall w).padCount = 0 := rfl
@[simp] theorem State.startCall_padSeen (w : BitVec 5) : (s.startCall w).padSeen = false := rfl
@[simp] theorem State.startCall_dataAfterPad (w : BitVec 5) : (s.startCall w).dataAfterPad = false := rfl
@[simp] theorem State.startCall_mem (w : BitVec 5) : (s.startCall w).mem = s.mem := rfl
@[simp] theorem State.startCall_inAt (w : BitVec 5) : (s.startCall w).inAt = s.inAt := rfl
@[simp] theorem State.startCall_outAt (w : BitVec 5) : (s.startCall w).outAt = s.outAt := rfl
@[simp] theorem State.startCall_outCap (w : BitVec 5) : (s.startCall w).outCap = s.outCap := rfl
@[simp] theorem State.startCall_pending (w : BitVec 5) : (s.startCall w).pending = s.pending := rfl
@[simp] theorem State.startCall_readings (w : BitVec 5) : (s.startCall w).readings = s.readings := rfl
@[simp] theorem State.startCall_draws (w : BitVec 5) : (s.startCall w).draws = s.draws := rfl

@[simp] theorem State.endCall_cmd (e : Err) : (s.endCall e).cmd = s.cmd := rfl
@[simp] theorem State.endCall_len (e : Err) : (s.endCall e).len = s.len := rfl
@[simp] theorem State.endCall_status (e : Err) : (s.endCall e).status = statusDone e := rfl
@[simp] theorem State.endCall_rlen (e : Err) : (s.endCall e).rlen = s.rlen := rfl
@[simp] theorem State.endCall_phase (e : Err) : (s.endCall e).phase = .idle := rfl
@[simp] theorem State.endCall_idx (e : Err) : (s.endCall e).idx = leftoverLen 0 s.draws := rfl
@[simp] theorem State.endCall_grp (e : Err) : (s.endCall e).grp = Config.leftover _ 1 s.draws := rfl
@[simp] theorem State.endCall_grpN (e : Err) : (s.endCall e).grpN = Config.leftover _ 2 s.draws := rfl
@[simp] theorem State.endCall_acc (e : Err) : (s.endCall e).acc = Config.leftover _ 3 s.draws := rfl
@[simp] theorem State.endCall_accBits (e : Err) : (s.endCall e).accBits = Config.leftover _ 4 s.draws := rfl
@[simp] theorem State.endCall_dataCount (e : Err) : (s.endCall e).dataCount = leftoverLen 5 s.draws := rfl
@[simp] theorem State.endCall_padCount (e : Err) : (s.endCall e).padCount = leftoverLen 6 s.draws := rfl
@[simp] theorem State.endCall_padSeen (e : Err) : (s.endCall e).padSeen = (Config.leftover 1 7 s.draws).getLsbD 0 := rfl
@[simp] theorem State.endCall_dataAfterPad (e : Err) : (s.endCall e).dataAfterPad = (Config.leftover 1 8 s.draws).getLsbD 0 := rfl
@[simp] theorem State.endCall_mem (e : Err) : (s.endCall e).mem = s.mem := rfl
@[simp] theorem State.endCall_inAt (e : Err) : (s.endCall e).inAt = s.inAt := rfl
@[simp] theorem State.endCall_outAt (e : Err) : (s.endCall e).outAt = s.outAt := rfl
@[simp] theorem State.endCall_outCap (e : Err) : (s.endCall e).outCap = s.outCap := rfl
@[simp] theorem State.endCall_pending (e : Err) : (s.endCall e).pending = s.pending := rfl
@[simp] theorem State.endCall_readings (e : Err) : (s.endCall e).readings = s.readings := rfl
@[simp] theorem State.endCall_draws (e : Err) : (s.endCall e).draws = s.draws + 1 := rfl

@[simp] theorem State.finish_cmd : (s.finish).cmd = s.cmd := rfl
@[simp] theorem State.finish_len : (s.finish).len = s.len := rfl
@[simp] theorem State.finish_status : (s.finish).status = statusDone .none := rfl
@[simp] theorem State.finish_rlen : (s.finish).rlen = s.rlen := rfl
@[simp] theorem State.finish_phase : (s.finish).phase = .idle := rfl
@[simp] theorem State.finish_idx : (s.finish).idx = leftoverLen 0 s.draws := rfl
@[simp] theorem State.finish_grp : (s.finish).grp = Config.leftover _ 1 s.draws := rfl
@[simp] theorem State.finish_grpN : (s.finish).grpN = Config.leftover _ 2 s.draws := rfl
@[simp] theorem State.finish_acc : (s.finish).acc = Config.leftover _ 3 s.draws := rfl
@[simp] theorem State.finish_accBits : (s.finish).accBits = Config.leftover _ 4 s.draws := rfl
@[simp] theorem State.finish_dataCount : (s.finish).dataCount = leftoverLen 5 s.draws := rfl
@[simp] theorem State.finish_padCount : (s.finish).padCount = leftoverLen 6 s.draws := rfl
@[simp] theorem State.finish_padSeen : (s.finish).padSeen = (Config.leftover 1 7 s.draws).getLsbD 0 := rfl
@[simp] theorem State.finish_dataAfterPad : (s.finish).dataAfterPad = (Config.leftover 1 8 s.draws).getLsbD 0 := rfl
@[simp] theorem State.finish_mem : (s.finish).mem = s.mem := rfl
@[simp] theorem State.finish_inAt : (s.finish).inAt = s.inAt := rfl
@[simp] theorem State.finish_outAt : (s.finish).outAt = s.outAt := rfl
@[simp] theorem State.finish_outCap : (s.finish).outCap = s.outCap := rfl
@[simp] theorem State.finish_pending : (s.finish).pending = s.pending := rfl
@[simp] theorem State.finish_readings : (s.finish).readings = s.readings := rfl
@[simp] theorem State.finish_draws : (s.finish).draws = s.draws + 1 := rfl

@[simp] theorem State.resetRegisters_cmd : (s.resetRegisters).cmd = 0 := rfl
@[simp] theorem State.resetRegisters_len : (s.resetRegisters).len = 0 := rfl
@[simp] theorem State.resetRegisters_status : (s.resetRegisters).status = 0 := rfl
@[simp] theorem State.resetRegisters_rlen : (s.resetRegisters).rlen = 0 := rfl
@[simp] theorem State.resetRegisters_phase : (s.resetRegisters).phase = .idle := rfl
@[simp] theorem State.resetRegisters_idx : (s.resetRegisters).idx = 0 := rfl
@[simp] theorem State.resetRegisters_grp : (s.resetRegisters).grp = 0 := rfl
@[simp] theorem State.resetRegisters_grpN : (s.resetRegisters).grpN = 0 := rfl
@[simp] theorem State.resetRegisters_acc : (s.resetRegisters).acc = 0 := rfl
@[simp] theorem State.resetRegisters_accBits : (s.resetRegisters).accBits = 0 := rfl
@[simp] theorem State.resetRegisters_dataCount : (s.resetRegisters).dataCount = 0 := rfl
@[simp] theorem State.resetRegisters_padCount : (s.resetRegisters).padCount = 0 := rfl
@[simp] theorem State.resetRegisters_padSeen : (s.resetRegisters).padSeen = false := rfl
@[simp] theorem State.resetRegisters_dataAfterPad : (s.resetRegisters).dataAfterPad = false := rfl
@[simp] theorem State.resetRegisters_mem : (s.resetRegisters).mem = s.mem := rfl
@[simp] theorem State.resetRegisters_inAt : (s.resetRegisters).inAt = s.inAt := rfl
@[simp] theorem State.resetRegisters_outAt : (s.resetRegisters).outAt = s.outAt := rfl
@[simp] theorem State.resetRegisters_outCap : (s.resetRegisters).outCap = s.outCap := rfl
@[simp] theorem State.resetRegisters_pending : (s.resetRegisters).pending = s.pending := rfl
@[simp] theorem State.resetRegisters_readings : (s.resetRegisters).readings = s.readings := rfl
@[simp] theorem State.resetRegisters_draws : (s.resetRegisters).draws = s.draws := rfl

@[simp] theorem State.note_cmd (r : Reading) : (s.note r).cmd = s.cmd := rfl
@[simp] theorem State.note_len (r : Reading) : (s.note r).len = s.len := rfl
@[simp] theorem State.note_status (r : Reading) : (s.note r).status = s.status := rfl
@[simp] theorem State.note_rlen (r : Reading) : (s.note r).rlen = s.rlen := rfl
@[simp] theorem State.note_phase (r : Reading) : (s.note r).phase = s.phase := rfl
@[simp] theorem State.note_idx (r : Reading) : (s.note r).idx = s.idx := rfl
@[simp] theorem State.note_grp (r : Reading) : (s.note r).grp = s.grp := rfl
@[simp] theorem State.note_grpN (r : Reading) : (s.note r).grpN = s.grpN := rfl
@[simp] theorem State.note_acc (r : Reading) : (s.note r).acc = s.acc := rfl
@[simp] theorem State.note_accBits (r : Reading) : (s.note r).accBits = s.accBits := rfl
@[simp] theorem State.note_dataCount (r : Reading) : (s.note r).dataCount = s.dataCount := rfl
@[simp] theorem State.note_padCount (r : Reading) : (s.note r).padCount = s.padCount := rfl
@[simp] theorem State.note_padSeen (r : Reading) : (s.note r).padSeen = s.padSeen := rfl
@[simp] theorem State.note_dataAfterPad (r : Reading) : (s.note r).dataAfterPad = s.dataAfterPad := rfl
@[simp] theorem State.note_mem (r : Reading) : (s.note r).mem = s.mem := rfl
@[simp] theorem State.note_inAt (r : Reading) : (s.note r).inAt = s.inAt := rfl
@[simp] theorem State.note_outAt (r : Reading) : (s.note r).outAt = s.outAt := rfl
@[simp] theorem State.note_outCap (r : Reading) : (s.note r).outCap = s.outCap := rfl
@[simp] theorem State.note_pending (r : Reading) : (s.note r).pending = s.pending := rfl
@[simp] theorem State.note_readings (r : Reading) : (s.note r).readings = r :: s.readings := rfl
@[simp] theorem State.note_draws (r : Reading) : (s.note r).draws = s.draws := rfl

@[simp] theorem State.dropPending_cmd : (s.dropPending).cmd = s.cmd := rfl
@[simp] theorem State.dropPending_len : (s.dropPending).len = s.len := rfl
@[simp] theorem State.dropPending_status : (s.dropPending).status = s.status := rfl
@[simp] theorem State.dropPending_rlen : (s.dropPending).rlen = s.rlen := rfl
@[simp] theorem State.dropPending_phase : (s.dropPending).phase = s.phase := rfl
@[simp] theorem State.dropPending_idx : (s.dropPending).idx = s.idx := rfl
@[simp] theorem State.dropPending_grp : (s.dropPending).grp = s.grp := rfl
@[simp] theorem State.dropPending_grpN : (s.dropPending).grpN = s.grpN := rfl
@[simp] theorem State.dropPending_acc : (s.dropPending).acc = s.acc := rfl
@[simp] theorem State.dropPending_accBits : (s.dropPending).accBits = s.accBits := rfl
@[simp] theorem State.dropPending_dataCount : (s.dropPending).dataCount = s.dataCount := rfl
@[simp] theorem State.dropPending_padCount : (s.dropPending).padCount = s.padCount := rfl
@[simp] theorem State.dropPending_padSeen : (s.dropPending).padSeen = s.padSeen := rfl
@[simp] theorem State.dropPending_dataAfterPad : (s.dropPending).dataAfterPad = s.dataAfterPad := rfl
@[simp] theorem State.dropPending_mem : (s.dropPending).mem = s.mem := rfl
@[simp] theorem State.dropPending_inAt : (s.dropPending).inAt = s.inAt := rfl
@[simp] theorem State.dropPending_outAt : (s.dropPending).outAt = s.outAt := rfl
@[simp] theorem State.dropPending_outCap : (s.dropPending).outCap = s.outCap := rfl
@[simp] theorem State.dropPending_pending : (s.dropPending).pending = s.pending.tail := rfl
@[simp] theorem State.dropPending_readings : (s.dropPending).readings = s.readings := rfl
@[simp] theorem State.dropPending_draws : (s.dropPending).draws = s.draws := rfl

@[simp] theorem loadGroup_cmd (D : Descriptor) : (loadGroup D s).cmd = s.cmd := rfl
@[simp] theorem loadGroup_len (D : Descriptor) : (loadGroup D s).len = s.len := rfl
@[simp] theorem loadGroup_status (D : Descriptor) : (loadGroup D s).status = s.status := rfl
@[simp] theorem loadGroup_rlen (D : Descriptor) : (loadGroup D s).rlen = s.rlen := rfl
@[simp] theorem loadGroup_phase (D : Descriptor) : (loadGroup D s).phase = s.phase := rfl
@[simp] theorem loadGroup_idx (D : Descriptor) : (loadGroup D s).idx = s.idx := rfl
@[simp] theorem loadGroup_grp (D : Descriptor) : (loadGroup D s).grp = topAligned ((List.range (groupLength D s)).map fun j => s.inUnit (s.idx + j)) := rfl
@[simp] theorem loadGroup_grpN (D : Descriptor) : (loadGroup D s).grpN = BitVec.ofNat 3 (groupLength D s) := rfl
@[simp] theorem loadGroup_acc (D : Descriptor) : (loadGroup D s).acc = s.acc := rfl
@[simp] theorem loadGroup_accBits (D : Descriptor) : (loadGroup D s).accBits = s.accBits := rfl
@[simp] theorem loadGroup_dataCount (D : Descriptor) : (loadGroup D s).dataCount = s.dataCount := rfl
@[simp] theorem loadGroup_padCount (D : Descriptor) : (loadGroup D s).padCount = s.padCount := rfl
@[simp] theorem loadGroup_padSeen (D : Descriptor) : (loadGroup D s).padSeen = s.padSeen := rfl
@[simp] theorem loadGroup_dataAfterPad (D : Descriptor) : (loadGroup D s).dataAfterPad = s.dataAfterPad := rfl
@[simp] theorem loadGroup_mem (D : Descriptor) : (loadGroup D s).mem = s.mem := rfl
@[simp] theorem loadGroup_inAt (D : Descriptor) : (loadGroup D s).inAt = s.inAt := rfl
@[simp] theorem loadGroup_outAt (D : Descriptor) : (loadGroup D s).outAt = s.outAt := rfl
@[simp] theorem loadGroup_outCap (D : Descriptor) : (loadGroup D s).outCap = s.outCap := rfl
@[simp] theorem loadGroup_pending (D : Descriptor) : (loadGroup D s).pending = s.pending := rfl
@[simp] theorem loadGroup_readings (D : Descriptor) : (loadGroup D s).readings = s.readings := rfl
@[simp] theorem loadGroup_draws (D : Descriptor) : (loadGroup D s).draws = s.draws := rfl

end Sys2Proof.Machine
end

