-- ==== Sys2Proof/Laws/Ops.lean ====
section
/-! SUPPORT. What each shared operation can do, said once: STATUS, appending, the unspecified write frame,
the two ends of a call. -/

namespace Sys2Proof.Machine

/-! STATUS. -/

@[simp] theorem Err.ofCode_code (e : Err) : Err.ofCode e.code = e := by cases e <;> rfl

@[simp] theorem busy_of_statusDone {s : State} {e : Err} (h : s.status = statusDone e) : s.busy = false := by
  cases e <;> simp [State.busy, h] <;> rfl

@[simp] theorem done_of_statusDone {s : State} {e : Err} (h : s.status = statusDone e) : s.done = true := by
  cases e <;> simp [State.done, h] <;> rfl

@[simp] theorem err_of_statusDone {s : State} {e : Err} (h : s.status = statusDone e) : s.err = e := by
  cases e <;> simp [State.err, h] <;> rfl

@[simp] theorem busy_of_statusBusy {s : State} (h : s.status = statusBusy) : s.busy = true := by
  simp [State.busy, h]; rfl

@[simp] theorem done_of_statusBusy {s : State} (h : s.status = statusBusy) : s.done = false := by
  simp [State.done, h]; rfl

@[simp] theorem err_of_statusBusy {s : State} (h : s.status = statusBusy) : s.err = .none := by
  simp [State.err, errField, h]; rfl

/-- STATUS is its three fields side by side (10_state.md R23, 30_encoding.md R95). -/
theorem status_eq_fields (s : State) : s.status = statusWord s.err s.done s.busy :=
  (by decide : ∀ v : BitVec 4, v = statusWord (errField v) (v.getLsbD 1) (v.getLsbD 0)) s.status

/-- Ending a call leaves STATUS, PHASE as 60_exceptions.md R254 says. -/
theorem State.endCall_ended (s : State) (e : Err) : (s.endCall e).ended e :=
  ⟨err_of_statusDone rfl, done_of_statusDone rfl, busy_of_statusDone rfl, rfl⟩

theorem State.finish_ended (s : State) : s.finish.ended .none := s.endCall_ended .none

/-! Numbers of LEN_W bits. -/

theorem fitsBits_iff {w n : Nat} : fitsBits w n = true ↔ n < 2 ^ w := by
  induction w generalizing n with
  | zero => simp [fitsBits]
  | succ w ih => simp only [fitsBits, Bool.or_eq_true, decide_eq_true_eq, ih, Nat.pow_succ]; grind

theorem fitsLen_iff {n : Nat} : fitsLen n = true ↔ n < 2 ^ Config.lenW := fitsBits_iff

/-- LEN_W is at least 8 (00_scope.md R6). -/
theorem lenW_ge : 256 ≤ 2 ^ Config.lenW :=
  Nat.pow_le_pow_right (n := 2) (i := 8) (by decide) (Nat.le_add_left 8 _)

theorem lenOf_eq (n : Nat) : lenOf n = n % 2 ^ Config.lenW := by
  simp only [lenOf, fitsLen_iff]; split
  · rw [Nat.mod_eq_of_lt ‹_›]
  · rfl

theorem lenOf_lt (n : Nat) : lenOf n < 2 ^ Config.lenW := by
  rw [lenOf_eq]; exact Nat.mod_lt _ (Nat.two_pow_pos _)

theorem leftoverLen_lt (slot draw : Nat) : leftoverLen slot draw < 2 ^ Config.lenW := BitVec.isLt _

/-! The unspecified write frame. -/

/-- Scrambling changes the memory alone. -/
theorem State.scrambleFrame_eq (s : State) (n : Nat) :
    s.scrambleFrame n = { s with mem := (s.scrambleFrame n).mem } := by
  induction n with
  | zero => rfl
  | succ n ih => simp only [State.scrambleFrame, State.store]; rw [ih]

/-- Every unit of the frame gets a free value, and no other unit changes. -/
theorem State.scrambleFrame_read (s : State) (n a : Nat) :
    (s.scrambleFrame n).mem.read a =
      if s.outAt ≤ a ∧ a < s.outAt + n then some (Config.frameUnit s.draws (a - s.outAt)) else s.mem.read a := by
  induction n with
  | zero => rw [if_neg (by omega)]; rfl
  | succ n ih =>
    simp only [State.scrambleFrame, State.store_mem, Memory.read_write, ih]
    by_cases h : a = s.outAt + n
    · subst h; rw [if_pos rfl, if_pos (by omega), Nat.add_sub_cancel_left]
    · rw [if_neg h]
      by_cases h1 : s.outAt ≤ a ∧ a < s.outAt + n
      · rw [if_pos h1, if_pos (by omega)]
      · rw [if_neg h1, if_neg (by omega)]

/-- Scrambling keeps the canonical form. -/
theorem State.scrambleFrame_wf {s : State} (n : Nat) (h : s.mem.wf) : (s.scrambleFrame n).mem.wf := by
  induction n with
  | zero => exact h
  | succ n ih => exact Memory.write_wf _ _ ih

/-! `raise`. -/

theorem State.raise_ended (s : State) (e : Err) (frame : Nat) : (s.raise e frame).ended e :=
  ⟨err_of_statusDone rfl, done_of_statusDone rfl, busy_of_statusDone rfl, rfl⟩

theorem State.raise_read (s : State) (e : Err) (frame a : Nat) :
    (s.raise e frame).mem.read a =
      if s.outAt ≤ a ∧ a < s.outAt + frame then some (Config.frameUnit s.draws (a - s.outAt)) else s.mem.read a :=
  s.scrambleFrame_read frame a

/-- RLEN after a `raise` is unspecified up to the size of the write frame. -/
theorem rlenUpTo_le (bound draw : Nat) : rlenUpTo bound draw ≤ bound :=
  Nat.le_of_lt_succ (Nat.mod_lt _ (Nat.succ_pos _))

/-- What a `raise` leaves alone. -/
theorem State.raise_frame (s : State) (e : Err) (frame : Nat) :
    (s.raise e frame).cmd = s.cmd ∧ (s.raise e frame).len = s.len ∧ (s.raise e frame).inAt = s.inAt ∧
    (s.raise e frame).outAt = s.outAt ∧ (s.raise e frame).outCap = s.outCap ∧
    (s.raise e frame).pending = s.pending ∧ (s.raise e frame).readings = s.readings := by
  have h := s.scrambleFrame_eq frame
  refine ⟨?_, ?_, ?_, ?_, ?_, ?_, ?_⟩ <;> simp only [State.raise, State.endCall] <;> rw [h]

/-! Appending. -/

/-- Appending changes the memory and RLEN alone. -/
theorem State.appendAll_eq (s : State) (vs : List Byte) :
    s.appendAll vs = { s with mem := (s.appendAll vs).mem, rlen := (s.appendAll vs).rlen } := by
  induction vs generalizing s with
  | nil => rfl
  | cons v vs ih => exact ih (s.append v)

@[simp] theorem State.appendAll_nil (s : State) : s.appendAll [] = s := rfl

theorem State.appendAll_cons (s : State) (v : Byte) (vs : List Byte) :
    s.appendAll (v :: vs) = (s.append v).appendAll vs := rfl

theorem State.appendAll_append (s : State) (us vs : List Byte) :
    s.appendAll (us ++ vs) = (s.appendAll us).appendAll vs := List.foldl_append

/-- RLEN counts the units appended. -/
theorem State.appendAll_rlen (s : State) (vs : List Byte) : (s.appendAll vs).rlen = s.rlen + vs.length := by
  induction vs generalizing s with
  | nil => rfl
  | cons v vs ih => rw [State.appendAll_cons, ih, State.append_rlen, List.length_cons]; omega

/-- The appended units stand in OUT from RLEN on, and no other unit of memory changes. -/
theorem State.appendAll_read (s : State) (vs : List Byte) (a : Nat) :
    (s.appendAll vs).mem.read a =
      if s.outAt + s.rlen ≤ a ∧ a < s.outAt + s.rlen + vs.length then vs[a - (s.outAt + s.rlen)]?
      else s.mem.read a := by
  induction vs generalizing s with
  | nil => rw [if_neg (fun h => by rw [List.length_nil] at h; omega)]; rfl
  | cons v vs ih =>
    rw [State.appendAll_cons, ih, State.append_rlen, State.append_outAt, State.append_mem, Memory.read_write,
      List.length_cons]
    by_cases hj : a = s.outAt + s.rlen
    · subst hj; rw [if_pos rfl, if_neg (by omega), if_pos (by omega)]; simp
    · rw [if_neg hj]
      by_cases h1 : s.outAt + (s.rlen + 1) ≤ a ∧ a < s.outAt + (s.rlen + 1) + vs.length
      · rw [if_pos h1, if_pos (by omega),
          show a - (s.outAt + s.rlen) = (a - (s.outAt + (s.rlen + 1))) + 1 by omega, List.getElem?_cons_succ]
      · rw [if_neg h1, if_neg (by omega)]

/-- Appending keeps the canonical form. -/
theorem State.appendAll_wf {s : State} (vs : List Byte) (h : s.mem.wf) : (s.appendAll vs).mem.wf := by
  induction vs generalizing s with
  | nil => exact h
  | cons v vs ih => exact ih (Memory.write_wf _ _ h)

end Sys2Proof.Machine
end

