-- ==== Sys2Proof/Laws/Size.lean ====
section
/-! SUPPORT. The size functions and the classes of characters over the eight records. -/

namespace Sys2Proof.Machine

/-- The blocks of the records (30_encoding.md R97). -/
theorem rom_block (v : Variant) :
    0 < (rom v).bitsPerSymbol ∧ (rom v).bitsPerSymbol < 8 ∧ 0 < (rom v).blockBytes ∧
    (rom v).blockBytes ≤ (rom v).blockSymbols ∧
    (rom v).blockSymbols * (rom v).bitsPerSymbol = (rom v).blockBytes * 8 := by
  cases v <;> decide

theorem partialBytes_le (v : Variant) : ∀ m < (rom v).blockSymbols, partialBytes (rom v) m ≤ m := by
  cases v <;> decide

/-- `decoded_max_size` never exceeds its argument (41_size.md R178). -/
theorem decodedMaxSize_le (v : Variant) (n : Nat) : decodedMaxSize (rom v) n ≤ n := by
  obtain ⟨-, hb, h0, h1, -⟩ := rom_block v
  unfold decodedMaxSize
  split
  · have hm := partialBytes_le v (n % (rom v).blockSymbols) (Nat.mod_lt _ (by omega))
    have hd := Nat.mul_le_mul_left (n / (rom v).blockSymbols) h1
    have hn := Nat.div_add_mod n (rom v).blockSymbols
    rw [Nat.mul_comm] at hn
    omega
  · have := Nat.mul_le_mul_left n (Nat.le_of_lt hb)
    omega

/-- The size of an encode in whole groups and a partial one, for both size classes (41_size.md R174). -/
theorem encodedSize_of_unpadded {D : Descriptor} (h : D.padPolicy ≠ .required) (n : Nat) :
    encodedSize D n = ceilDiv (8 * n) D.bitsPerSymbol := by
  simp [encodedSize, Descriptor.padded, h]

theorem encodedSize_of_padded {D : Descriptor} (h : D.padPolicy = .required) (n : Nat) :
    encodedSize D n =
      n / D.blockBytes * D.blockSymbols + (if n % D.blockBytes = 0 then 0 else D.blockSymbols) := by
  simp [encodedSize, Descriptor.padded, h]

/-- `classify` answers *data* exactly for an accepted character, with its table value. -/
theorem classify_data {D : Descriptor} {c v : Byte} (h : classify D c = .data v) :
    v = D.decAt c ∧ D.decAt c ≠ invalidEntry ∧ D.ignAt c = false := by
  unfold classify at h
  split at h
  · cases h
  · split at h
    · cases h
    · split at h <;> cases h
      exact ⟨rfl, by simp_all, by simp_all⟩

theorem rom_decLegal (v : Variant) : (rom v).decLegal = true := by cases v <;> decide +kernel

/-- Every entry of a reverse table is a value of `bps` bits or the invalid marker (30_encoding.md R99). -/
theorem dec_entries (v : Variant) {x : Byte} (hx : x ∈ (rom v).dec) :
    x = invalidEntry ∨ x.toNat < 2 ^ (rom v).bitsPerSymbol := by
  simpa using List.all_eq_true.1 (rom_decLegal v) x hx

/-- The value of a data character fits `bps` bits, in every record (30_encoding.md R99). -/
theorem decAt_lt (v : Variant) (c : Byte) (h : (rom v).decAt c ≠ invalidEntry) :
    ((rom v).decAt c).toNat < 2 ^ (rom v).bitsPerSymbol := by
  unfold Descriptor.decAt at h ⊢
  rw [List.getD_eq_getElem?_getD] at h ⊢
  cases hx : (rom v).dec[c.toNat]? with
  | none => simp [hx] at h
  | some x =>
    rw [hx] at h
    exact (dec_entries v (List.mem_of_getElem? hx)).resolve_left h

end Sys2Proof.Machine
end

