-- ==== Sys2Proof/Laws/Engine.lean ====
section
/-! SUPPORT. What the engine can do, said once: every command is one of four calls on its record; each call
answers in one of the ways listed; each loop changes only the registers it names. -/

namespace Sys2Proof.Machine

/-- The call of an operation on a record. -/
def callOf (op : Op) (D : Descriptor) (s : State) : Host.Outcome State Fault Refusal :=
  match op with
  | .esz => eszCall D s
  | .dms => dmsCall D s
  | .enc => encCall D s
  | .dec => decCall D s

/-- Every command is the call of its operation on its record. -/
theorem exec_eq_callOf (i : Instr) (s : State) : exec i s = callOf i.op i.record s := by cases i <;> rfl

/-! The loops. -/

theorem scanUnit_eq {D : Descriptor} {s t : State} (h : scanUnit D s = some t) :
    t = { s with idx := t.idx, dataCount := t.dataCount, padCount := t.padCount, padSeen := t.padSeen,
                 dataAfterPad := t.dataAfterPad } := by
  unfold scanUnit at h
  split at h <;> cases h <;> rfl

/-- The scan changes IDX, the two counters and the two flags alone. -/
theorem scanUnits_eq {D : Descriptor} {n : Nat} {s t : State} (h : scanUnits D n s = some t) :
    t = { s with idx := t.idx, dataCount := t.dataCount, padCount := t.padCount, padSeen := t.padSeen,
                 dataAfterPad := t.dataAfterPad } := by
  induction n generalizing s with
  | zero => cases h; rfl
  | succ n ih =>
    simp only [scanUnits] at h
    split at h
    · obtain ⟨u, hu, ht⟩ := Option.bind_eq_some_iff.1 h
      rw [ih ht, scanUnit_eq hu]
    · cases h; rfl

theorem State.absorb_eq (D : Descriptor) (s : State) (v : Byte) :
    s.absorb D v = { s with acc := (s.absorb D v).acc, accBits := (s.absorb D v).accBits,
                            rlen := (s.absorb D v).rlen, mem := (s.absorb D v).mem } := by
  simp only [State.absorb]
  split <;> rfl

theorem emitUnit_eq (D : Descriptor) (s : State) :
    emitUnit D s = { s with idx := (emitUnit D s).idx, acc := (emitUnit D s).acc,
                            accBits := (emitUnit D s).accBits, rlen := (emitUnit D s).rlen,
                            mem := (emitUnit D s).mem } := by
  unfold emitUnit
  split
  · rename_i v _; simp only [State.nextUnit]; rw [s.absorb_eq D v]
  · rfl

/-- The emission changes IDX, ACC, ACC_BITS, RLEN and the memory alone. -/
theorem emitUnits_eq (D : Descriptor) (n : Nat) (s : State) :
    emitUnits D n s = { s with idx := (emitUnits D n s).idx, acc := (emitUnits D n s).acc,
                               accBits := (emitUnits D n s).accBits, rlen := (emitUnits D n s).rlen,
                               mem := (emitUnits D n s).mem } := by
  induction n generalizing s with
  | zero => rfl
  | succ n ih =>
    simp only [emitUnits]
    split
    · rw [ih, emitUnit_eq D s]
    · rfl

theorem emitGroup_eq (D : Descriptor) (s : State) :
    emitGroup D s = { s with idx := (emitGroup D s).idx, rlen := (emitGroup D s).rlen,
                             mem := (emitGroup D s).mem } := by
  simp only [emitGroup]
  rw [s.appendAll_eq]

/-- The encoder's loop changes IDX, GRP, GRP_N, RLEN and the memory alone. -/
theorem encodeGroups_eq (D : Descriptor) (n : Nat) (s : State) :
    encodeGroups D n s = { s with idx := (encodeGroups D n s).idx, grp := (encodeGroups D n s).grp,
                                  grpN := (encodeGroups D n s).grpN, rlen := (encodeGroups D n s).rlen,
                                  mem := (encodeGroups D n s).mem } := by
  induction n generalizing s with
  | zero => rfl
  | succ n ih =>
    simp only [encodeGroups]
    split
    · rw [ih, emitGroup_eq D (loadGroup D s)]; rfl
    · rfl

/-! The emission and the encoder keep the canonical form of memory. -/

theorem State.absorb_wf {D : Descriptor} {s : State} (v : Byte) (h : s.mem.wf) :
    (s.absorb D v).mem.wf := by
  simp only [State.absorb]
  split
  · rename_i b _; exact s.appendAll_wf [b] h
  · exact h

theorem emitUnits_wf {D : Descriptor} (n : Nat) {s : State} (h : s.mem.wf) :
    (emitUnits D n s).mem.wf := by
  induction n generalizing s with
  | zero => exact h
  | succ n ih =>
    simp only [emitUnits]
    split
    · refine ih ?_
      unfold emitUnit
      split
      · exact State.absorb_wf _ h
      · exact h
    · exact h

theorem encodeGroups_wf {D : Descriptor} (n : Nat) {s : State} (h : s.mem.wf) :
    (encodeGroups D n s).mem.wf := by
  induction n generalizing s with
  | zero => exact h
  | succ n ih =>
    simp only [encodeGroups]
    split
    · exact ih (State.appendAll_wf (s := loadGroup D s) _ h)
    · exact h

/-! The four calls. -/

/-- `ESZ` answers a next state exactly when its premise holds, and then this one. -/
theorem eszCall_next {D : Descriptor} {s t : State} (h : eszCall D s = .next t) :
    s.callRefusal .esz D = none ∧
    t = (s.answer (encodedSize D s.operand)).finish := by
  unfold eszCall at h
  split at h <;> cases h
  exact ⟨‹_›, rfl⟩

/-- `DMS` always answers a next state. -/
theorem dmsCall_next (D : Descriptor) (s : State) :
    dmsCall D s = .next (s.answer (decodedMaxSize D s.operand)).finish := rfl

/-- `ENC` answers a next state exactly when its premises hold, and then this one. -/
theorem encCall_next {D : Descriptor} {s t : State} (h : encCall D s = .next t) :
    s.callRefusal .enc D = none ∧
    t = (encodeGroups D s.operand (s.startPhase .emit)).finish := by
  unfold encCall at h
  split at h <;> cases h
  exact ⟨‹_›, rfl⟩

/-- `DEC` answers a next state exactly when its premises hold; it ends with an error raised by the scan, or
with one raised by the checks, or with the emission. -/
theorem decCall_next {D : Descriptor} {s t : State} (h : decCall D s = .next t) :
    s.callRefusal .dec D = none ∧
    ((scanUnits D s.operand (s.startPhase .scan) = none ∧
        t = s.raise .symbolError (decodedMaxSize D s.operand)) ∨
     ∃ u, scanUnits D s.operand (s.startPhase .scan) = some u ∧
        ((u.checkErr D ≠ .none ∧ t = u.raise (u.checkErr D) (decodedMaxSize D s.operand)) ∨
         (u.checkErr D = .none ∧
            t = (emitUnits D s.operand u.beginEmit).finish))) := by
  unfold decCall at h
  split at h
  · cases h
  · refine ⟨‹_›, ?_⟩
    dsimp only at h
    split at h
    · cases h; exact .inl ⟨‹_›, rfl⟩
    · rename_i u hu
      refine .inr ⟨u, hu, ?_⟩
      split at h <;> cases h
      · exact .inr ⟨‹_›, rfl⟩
      · rename_i hne; exact .inl ⟨hne, rfl⟩

/-- A call is refused for its broken premise and for nothing else. -/
theorem callOf_refused {op : Op} {D : Descriptor} {s : State} {r : Refusal} :
    callOf op D s = .refused r ↔ s.callRefusal op D = some r := by
  cases op
  case dms => simp [callOf, dmsCall, State.callRefusal]
  all_goals
    simp only [callOf, eszCall, encCall, decCall]
    cases h : s.callRefusal _ D with
    | some r' => simp
    | none => simp only [reduceCtorEq, iff_false] <;> (repeat' split) <;> simp

/-- The premises of a command hold exactly when it is not refused. -/
theorem premises_iff {i : Instr} {s : State} : s.callRefusal i.op i.record = none ↔ s.premises i := by
  have ho : s.operand = s.len := rfl
  have hf : fitsLen (encodedSize i.record s.len) = true ↔ encodedSize i.record s.len < 2 ^ Config.lenW :=
    fitsLen_iff
  simp only [State.callRefusal, State.premises, State.encPremises, State.decPremises, State.widthRefusal,
    State.sinkRefusal, ← State.overlapsFrame_iff, ho]
  split <;> grind

/-- A command whose premises hold answers a next state. -/
theorem exec_of_premises {i : Instr} {s : State} (h : s.premises i) : ∃ t, exec i s = .next t := by
  cases he : exec i s with
  | next t => exact ⟨t, rfl⟩
  | fault f => cases f
  | refused r =>
    rw [exec_eq_callOf, callOf_refused, premises_iff.2 h] at he
    cases he

/-- What the engine may change while a call runs: STATUS, RLEN, the working registers and OUT. -/
abbrev EngineMoves (s u : State) : Prop :=
  u = { s with status := u.status, rlen := u.rlen, phase := u.phase, idx := u.idx, grp := u.grp, grpN := u.grpN,
               acc := u.acc, accBits := u.accBits, dataCount := u.dataCount, padCount := u.padCount,
               padSeen := u.padSeen, dataAfterPad := u.dataAfterPad, mem := u.mem }

/-- What any command can do: its premises hold, and from a state `u` the engine has moved to it either
finishes, or (a `DEC`, OUT still untouched) raises the error of the scan or of the checks. -/
theorem exec_next {i : Instr} {s t : State} (h : exec i s = .next t) :
    s.callRefusal i.op i.record = none ∧ ∃ u, EngineMoves s u ∧
      (t = u.finish ∨
       ∃ e, i.op = .dec ∧ e ≠ .none ∧ (e = .symbolError ∨ e = u.checkErr i.record) ∧ u.mem = s.mem ∧
         t = u.raise e (decodedMaxSize i.record s.operand)) := by
  rw [exec_eq_callOf] at h
  cases hop : i.op <;> rw [hop] at h
  case esz =>
    obtain ⟨hr, rfl⟩ := eszCall_next h
    exact ⟨hr, _, rfl, .inl rfl⟩
  case dms => cases h; exact ⟨rfl, _, rfl, .inl rfl⟩
  case enc =>
    obtain ⟨hr, rfl⟩ := encCall_next h
    refine ⟨hr, _, ?_, .inl rfl⟩
    rw [encodeGroups_eq]
    rfl
  case dec =>
    obtain ⟨hr, ⟨-, ht⟩ | ⟨u, hu, ⟨hne, ht⟩ | ⟨-, rfl⟩⟩⟩ := decCall_next h
    · exact ⟨hr, s, rfl, .inr ⟨_, rfl, by simp, .inl rfl, rfl, ht⟩⟩
    · have hu' := scanUnits_eq hu
      exact ⟨hr, u, by rw [hu']; rfl, .inr ⟨_, rfl, hne, .inr rfl, by rw [hu']; rfl, ht⟩⟩
    · refine ⟨hr, _, ?_, .inl rfl⟩
      rw [emitUnits_eq, scanUnits_eq hu]
      rfl

/-- STATUS after a command: the word of its error (60_exceptions.md R254). -/
theorem exec_status {i : Instr} {s t : State} (h : exec i s = .next t) : t.status = statusDone t.err := by
  obtain ⟨-, u, -, rfl | ⟨e, -, -, -, -, rfl⟩⟩ := exec_next h
  · rw [u.finish_ended.1]; rfl
  · rw [(u.raise_ended e _).1]; rfl

/-- A command keeps the memory in canonical form. -/
theorem exec_wf {i : Instr} {s t : State} (h : exec i s = .next t) (hs : s.mem.wf) :
    t.mem.wf := by
  rw [exec_eq_callOf] at h
  cases hop : i.op <;> rw [hop] at h
  case esz => obtain ⟨-, rfl⟩ := eszCall_next h; exact hs
  case dms => cases h; exact hs
  case enc =>
    obtain ⟨-, rfl⟩ := encCall_next h
    exact encodeGroups_wf (s := (s.startPhase .emit)) _ hs
  case dec =>
    have raised : ∀ (u : State) (e : Err), u.mem = s.mem →
        (u.raise e (decodedMaxSize i.record s.operand)).mem.wf := fun u e hu =>
      State.scrambleFrame_wf _ (hu ▸ hs)
    obtain ⟨-, ⟨-, rfl⟩ | ⟨u, hu, h2⟩⟩ := decCall_next h
    · exact raised s _ rfl
    · have ho : u.mem = s.mem := by rw [scanUnits_eq hu]; rfl
      rcases h2 with ⟨-, rfl⟩ | ⟨-, rfl⟩
      · exact raised u _ ho
      · exact emitUnits_wf (s := u.beginEmit) _ (ho ▸ hs)

end Sys2Proof.Machine
end

