-- ==== Sys2Proof/Laws/PerInstr.lean ====
section
/-! SUPPORT. Statements made per instruction: the family Encoding says that the word of a command, on its own
and as the table numbers it, decodes to the command. -/

namespace Sys2Proof.Laws

/-- The word of `i` decodes to `i`. -/
def Encoding.Statement (i : Instr) : Prop :=
  decodeCmd (encodeCmd i) = i ∧ decode (encode i) = .ok (i, []) ∧
  decodeTableWord 8 (encodeCmd i).toNat = some i

theorem Encoding.eszHexu : Encoding.Statement .eszHexu := ⟨rfl, rfl, rfl⟩
theorem Encoding.eszHexl : Encoding.Statement .eszHexl := ⟨rfl, rfl, rfl⟩
theorem Encoding.eszB32 : Encoding.Statement .eszB32 := ⟨rfl, rfl, rfl⟩
theorem Encoding.eszB32h : Encoding.Statement .eszB32h := ⟨rfl, rfl, rfl⟩
theorem Encoding.eszB32c : Encoding.Statement .eszB32c := ⟨rfl, rfl, rfl⟩
theorem Encoding.eszB64 : Encoding.Statement .eszB64 := ⟨rfl, rfl, rfl⟩
theorem Encoding.eszB64u : Encoding.Statement .eszB64u := ⟨rfl, rfl, rfl⟩
theorem Encoding.eszB64un : Encoding.Statement .eszB64un := ⟨rfl, rfl, rfl⟩
theorem Encoding.dmsHexu : Encoding.Statement .dmsHexu := ⟨rfl, rfl, rfl⟩
theorem Encoding.dmsHexl : Encoding.Statement .dmsHexl := ⟨rfl, rfl, rfl⟩
theorem Encoding.dmsB32 : Encoding.Statement .dmsB32 := ⟨rfl, rfl, rfl⟩
theorem Encoding.dmsB32h : Encoding.Statement .dmsB32h := ⟨rfl, rfl, rfl⟩
theorem Encoding.dmsB32c : Encoding.Statement .dmsB32c := ⟨rfl, rfl, rfl⟩
theorem Encoding.dmsB64 : Encoding.Statement .dmsB64 := ⟨rfl, rfl, rfl⟩
theorem Encoding.dmsB64u : Encoding.Statement .dmsB64u := ⟨rfl, rfl, rfl⟩
theorem Encoding.dmsB64un : Encoding.Statement .dmsB64un := ⟨rfl, rfl, rfl⟩
theorem Encoding.encHexu : Encoding.Statement .encHexu := ⟨rfl, rfl, rfl⟩
theorem Encoding.encHexl : Encoding.Statement .encHexl := ⟨rfl, rfl, rfl⟩
theorem Encoding.encB32 : Encoding.Statement .encB32 := ⟨rfl, rfl, rfl⟩
theorem Encoding.encB32h : Encoding.Statement .encB32h := ⟨rfl, rfl, rfl⟩
theorem Encoding.encB32c : Encoding.Statement .encB32c := ⟨rfl, rfl, rfl⟩
theorem Encoding.encB64 : Encoding.Statement .encB64 := ⟨rfl, rfl, rfl⟩
theorem Encoding.encB64u : Encoding.Statement .encB64u := ⟨rfl, rfl, rfl⟩
theorem Encoding.encB64un : Encoding.Statement .encB64un := ⟨rfl, rfl, rfl⟩
theorem Encoding.decHexu : Encoding.Statement .decHexu := ⟨rfl, rfl, rfl⟩
theorem Encoding.decHexl : Encoding.Statement .decHexl := ⟨rfl, rfl, rfl⟩
theorem Encoding.decB32 : Encoding.Statement .decB32 := ⟨rfl, rfl, rfl⟩
theorem Encoding.decB32h : Encoding.Statement .decB32h := ⟨rfl, rfl, rfl⟩
theorem Encoding.decB32c : Encoding.Statement .decB32c := ⟨rfl, rfl, rfl⟩
theorem Encoding.decB64 : Encoding.Statement .decB64 := ⟨rfl, rfl, rfl⟩
theorem Encoding.decB64u : Encoding.Statement .decB64u := ⟨rfl, rfl, rfl⟩
theorem Encoding.decB64un : Encoding.Statement .decB64un := ⟨rfl, rfl, rfl⟩

end Sys2Proof.Laws
end

