-- ==== Sys2Proof/Laws/Step.lean ====
section
/-! SUPPORT. What a step and a host action can do, said once. -/

namespace Sys2Proof.Machine

/-- The engine's turn of a running call. -/
theorem step_of_engineTurn {s : State} (hb : s.busy = true) (ht : s.engineTurn = true) :
    step s = exec (decodeCmd s.cmd) s := by
  simp [step, hb, ht]

/-- The host's turn of a running call. -/
theorem step_of_hostTurn {s : State} (ht : s.engineTurn = false) : step s = hostStep s := by
  simp [step, ht]

/-- No call runs: the host moves. -/
theorem step_of_idle {s : State} (hb : s.busy = false) : step s = hostStep s := by
  simp [step, hb]

theorem hostStep_nil {s : State} (hp : s.pending = []) : hostStep s = .next s := by simp [hostStep, hp]

theorem hostStep_idle {s : State} {a : HostAction} {rest : List HostAction} (hb : s.busy = false)
    (hp : s.pending = a :: rest) : hostStep s = hostIdle a s.dropPending := by simp [hostStep, hp, hb]

theorem hostStep_busy {s : State} {a : HostAction} {rest : List HostAction} (hb : s.busy = true)
    (hp : s.pending = a :: rest) : hostStep s = hostBusy a s.dropPending := by simp [hostStep, hp, hb]

/-- Every step is the engine's, the host's doing nothing, or the host's next action, idle or busy. -/
theorem step_cases {s : State} {o : Host.Outcome State Fault Refusal} (h : step s = o) :
    (s.busy = true ∧ s.engineTurn = true ∧ exec (decodeCmd s.cmd) s = o) ∨
    (s.busy = false ∧ s.pending = [] ∧ o = .next s) ∨
    (∃ a rest, s.busy = false ∧ s.pending = a :: rest ∧ hostIdle a s.dropPending = o) ∨
    (∃ a rest, s.busy = true ∧ s.engineTurn = false ∧ s.pending = a :: rest ∧ hostBusy a s.dropPending = o) := by
  cases hb : s.busy with
  | false =>
    rw [step_of_idle hb] at h
    cases hp : s.pending with
    | nil => rw [hostStep_nil hp] at h; simp [h]
    | cons a rest => rw [hostStep_idle hb hp] at h; simp [h]
  | true =>
    cases ht : s.engineTurn with
    | true => rw [step_of_engineTurn hb ht] at h; simp [h]
    | false =>
      rw [step_of_hostTurn ht] at h
      cases hp : s.pending with
      | nil => simp [State.engineTurn, State.hostOnlyWaits, hp] at ht
      | cons a rest => rw [hostStep_busy hb hp] at h; simp [h]

/-- Waiting is the engine's turn. -/
theorem engineTurn_of_hostOnlyWaits {s : State} (h : s.hostOnlyWaits = true) : s.engineTurn = true := by
  simp [State.engineTurn, h]

/-- Letting the host wait changes the list of its actions alone, and then it waits. -/
theorem State.hostWaits_eq (s : State) : s.hostWaits = { s with pending := s.hostWaits.pending } := by
  simp only [State.hostWaits]; split <;> rfl

theorem State.hostWaits_hostOnlyWaits (s : State) : s.hostWaits.hostOnlyWaits = true := by
  unfold State.hostWaits
  split
  · assumption
  · rfl

/-- A host action on an idle machine is refused only if it starts a call with a broken premise. -/
theorem hostIdle_refused {a : HostAction} {s : State} {r : Refusal} (h : hostIdle a s = .refused r) :
    ∃ w, a = .writeCmd w ∧ s.callRefusal (decodeCmd w).op (rom (decodeCmd w).variant) = some r := by
  unfold hostIdle at h
  split at h <;> try cases h
  · dsimp only at h
    split at h <;> cases h
    exact ⟨_, rfl, ‹_›⟩
  · split at h <;> cases h

/-- The host's branch on its readings changes the list of its actions alone. -/
theorem State.returnUnits_eq (s : State) : s.returnUnits = { s with pending := s.returnUnits.pending } := by
  unfold State.returnUnits
  split
  · split <;> rfl
  · rfl

/-- What a host action can do on an idle machine: start a call whose premises hold; reset the registers; or
leave every register but LEN, and the memory with at most one unit written. -/
theorem hostIdle_next {a : HostAction} {s t : State} (h : hostIdle a s = .next t) :
    (∃ w, a = .writeCmd w ∧ s.callRefusal (decodeCmd w).op (rom (decodeCmd w).variant) = none ∧
      t = s.startCall w) ∨
    (a = .reset ∧ t = s.resetRegisters) ∨
    (t = { s with len := t.len, mem := t.mem, inAt := t.inAt, outAt := t.outAt, outCap := t.outCap,
                  pending := t.pending, readings := t.readings } ∧
      (t.len = s.len ∨ ∃ n, t.len = lenOf n) ∧
      (t.mem = s.mem ∨ ∃ (k : Nat) (v : Byte), t.mem = s.mem.write k v)) := by
  unfold hostIdle at h
  split at h
  case h_1 =>
    dsimp only at h
    split at h <;> cases h
    exact .inl ⟨_, rfl, ‹_›, rfl⟩
  case h_2 => cases h; exact .inr (.inr ⟨rfl, .inr ⟨_, rfl⟩, .inl rfl⟩)
  case h_3 => cases h; exact .inr (.inr ⟨rfl, .inl rfl, .inr ⟨_, _, rfl⟩⟩)
  case h_5 => cases h; exact .inr (.inr ⟨rfl, .inl rfl, .inr ⟨_, _, rfl⟩⟩)
  case h_13 => split at h <;> cases h <;> exact .inr (.inr ⟨rfl, .inl rfl, .inl rfl⟩)
  case h_14 => cases h; refine .inr (.inr ⟨?_, ?_, ?_⟩) <;> rw [s.returnUnits_eq] <;> simp
  case h_15 => cases h; exact .inr (.inl ⟨rfl, rfl⟩)
  all_goals cases h; exact .inr (.inr ⟨rfl, .inl rfl, .inl rfl⟩)

/-- What a host action can do on a busy machine: abandon the call, or touch no register and no unit. -/
theorem hostBusy_next {a : HostAction} {s t : State} (h : hostBusy a s = .next t) :
    (a = .reset ∧ t = s.abandonCall) ∨
    t = { s with pending := t.pending, readings := t.readings, draws := t.draws } := by
  unfold hostBusy at h
  split at h <;> cases h <;>
    first | exact .inl ⟨rfl, rfl⟩ | exact .inr rfl | (rw [s.returnUnits_eq]; exact .inr rfl)

end Sys2Proof.Machine
end

