-- ==== Sys2Proof/Machine/HostProgram.lean ====
section
/-! DEFINITION. The host's notation (30_encoding.md R110) and the four pseudo-instructions (R111) as
sequences of host actions. A sequence put in `State.pending` is how a program comes to run (log 3). -/

namespace Sys2Proof.Machine

/-- `IN <- units`: fill the input buffer from index 0 (30_encoding.md R110). -/
def fillIn (units : List Byte) : List HostAction :=
  units.zipIdx.map fun ui => .writeIn ui.2 ui.1

/-- `LEN <- n; CMD <- word; wait done` (30_encoding.md R110). -/
def issue (i : Instr) (n : Nat) : List HostAction :=
  [.writeLen n, .writeCmd (encodeCmd i), .waitDone]

/-- `encoded_size_<variant>(n)` (30_encoding.md R111). -/
def encodedSizeProgram (v : Variant) (n : Nat) : List HostAction := issue (commandOf .esz v) n ++ [.readRlen]

/-- `decoded_max_size_<variant>(n)` (30_encoding.md R111). -/
def decodedMaxSizeProgram (v : Variant) (n : Nat) : List HostAction := issue (commandOf .dms v) n ++ [.readRlen]

/-- `encode_<variant>(bytes)` (30_encoding.md R111), the sink sized by the host's own arithmetic. -/
def encodeProgram (v : Variant) (bytes : List Byte) : List HostAction :=
  .reserve (encodedSize (rom v) bytes.length) :: fillIn bytes ++ issue (commandOf .enc v) bytes.length ++
    .readRlen :: readOutUnits (encodedSize (rom v) bytes.length)

/-- `decode_<variant>(symbols)` (30_encoding.md R111): the error is the STATUS read, the bytes are the units
read after it, if any. -/
def decodeProgram (v : Variant) (symbols : List Byte) : List HostAction :=
  .reserve (decodedMaxSize (rom v) symbols.length) :: fillIn symbols ++
    issue (commandOf .dec v) symbols.length ++ [.readStatus, .readRlen, .returnUnits]

end Sys2Proof.Machine
end

