-- ==== Sys2Proof/Tests/Slice0.lean ====
section
/-! SUPPORT. Tests: command words written out, ill-formed records refused, one or two calls per command with
results from the spec's own vectors (95_test_vectors.md), and for each statement with hypotheses a witness
that meets them. -/

namespace Sys2Proof.Tests

set_option Elab.async false

open Sys2Proof.Machine

/-! Helpers. -/

/-- The machine after reset with `bytes` placed in IN, their number in LEN, and room for `cap` units. -/
def placed (bytes : List Byte) (cap : Nat) : State :=
  { State.reset with len := bytes.length, mem := bytes.zipIdx.map fun bi => (bi.2, bi.1), outCap := cap }

/-- The machine after reset with a length in LEN. -/
def sized (n : Nat) : State := { State.reset with len := n }

/-- The next state, if there is one. -/
def nextOf (o : Host.Outcome State Fault Refusal) : Option State :=
  match o with
  | .next t => some t
  | _ => none

/-- Why a step is refused, if it is. -/
def stopOf (o : Host.Outcome State Fault Refusal) : Option Refusal :=
  match o with
  | .refused r => some r
  | _ => none

/-- RLEN after a command on a length. -/
def sizeOf (i : Instr) (n : Nat) : Option Nat := (nextOf (exec i (sized n))).map fun t => t.rlen

/-- The verdict, how many places of memory are listed, and OUT below RLEN, after a command on a text. -/
def outOf (i : Instr) (bytes : List Byte) : Option (Err × Nat × List Byte) :=
  (nextOf (exec i (placed bytes 64))).map fun t => (t.err, t.mem.length, (List.range t.rlen).map t.outUnit)

/-- The verdict after a command on a text. -/
def errOf (i : Instr) (bytes : List Byte) : Option Err := (nextOf (exec i (placed bytes 64))).map State.err

/-- STATUS after a command on a text. -/
def statusOf (i : Instr) (bytes : List Byte) : Option (BitVec 4) :=
  (nextOf (exec i (placed bytes 64))).map fun t => t.status

theorem next_of_nextOf {o : Host.Outcome State Fault Refusal} (h : (nextOf o).isSome = true) : ∃ t, o = .next t := by
  cases o with
  | next t => exact ⟨t, rfl⟩
  | fault f => cases f
  | refused r => cases h

/-! Command words, bit by bit: `op` in CMD[4:3], `var` in CMD[2:0] (30_encoding.md R90 to R93). -/

theorem test_decode_esz : decodeCmd 0b00_100#5 = .eszB32c := by decide

theorem test_decode_esz_last : decodeCmd 0b00_111#5 = .eszB64un := by decide

theorem test_decode_dms : decodeCmd 0b01_010#5 = .dmsB32 := by decide

theorem test_decode_dms_first : decodeCmd 0b01_000#5 = .dmsHexu := by decide

theorem test_decode_enc : decodeCmd 0b10_101#5 = .encB64 := by decide

theorem test_decode_enc_hexl : decodeCmd 0b10_001#5 = .encHexl := by decide

theorem test_decode_dec : decodeCmd 0b11_001#5 = .decHexl := by decide

theorem test_decode_dec_last : decodeCmd 0b11_111#5 = .decB64un := by decide

theorem test_decode_words_of_the_table :
    (List.range 32).map (fun k => decodeTableWord 8 k) =
      (eszCommands ++ dmsCommands ++ encCommands ++ decCommands).map some := by decide

theorem test_decode_rejects_a_wider_byte :
    decodeTableWord 8 0x20 = none ∧ decodeTableWord 8 0xFF = none ∧ decode [] = .error .noWord := ⟨by decide, by decide, rfl⟩

theorem test_decode_takes_one_byte : decode [0x1F#8, 0x00#8] = .ok (.decB64un, [0x00#8]) := rfl

/-! Well-formedness: every record of the ROM is accepted, and an ill-formed one refused, for each check. -/

theorem test_wf_rom : ∀ v : Variant, (rom v).wf = true := by
  intro v; cases v <;> decide +kernel

/-- The record the ill-formed ones are made from. -/
def sample : Descriptor := rom .base32Crockford

theorem test_wf_refuses_bps : ({ sample with bps := 7 } : Descriptor).bpsLegal = false ∧
    ({ sample with bps := 7 } : Descriptor).wf = false := by decide +kernel

theorem test_wf_refuses_block : ({ sample with bbc := 4 } : Descriptor).blockLegal = false ∧
    ({ sample with bbc := 4 } : Descriptor).wf = false := by decide +kernel

theorem test_wf_refuses_pad_reserved : ({ sample with padPolicy := .reserved, hasPad := true } : Descriptor).padLegal = false ∧
    ({ sample with padPolicy := .reserved, hasPad := true } : Descriptor).wf = false := by decide +kernel

theorem test_wf_refuses_pad_missing : ({ sample with padPolicy := .required } : Descriptor).padLegal = false ∧
    ({ sample with padPolicy := .required } : Descriptor).wf = false := by decide +kernel

theorem test_wf_refuses_sizes : ({ sample with dec := sample.dec.take 255 } : Descriptor).sizesLegal = false ∧
    ({ sample with dec := sample.dec.take 255 } : Descriptor).wf = false := by decide +kernel

theorem test_wf_refuses_dec_reserved : ({ sample with dec := sample.dec.set 0x21 0x20#8 } : Descriptor).decLegal = false ∧
    ({ sample with dec := sample.dec.set 0x21 0x20#8 } : Descriptor).wf = false := by decide +kernel

theorem test_wf_refuses_classes : ({ sample with ign := sample.ign.set 0x30 true } : Descriptor).classesDisjoint = false ∧
    ({ sample with ign := sample.ign.set 0x30 true } : Descriptor).wf = false := by decide +kernel

theorem test_wf_refuses_tables : ({ sample with enc := sample.enc.set 1 0x30#8 } : Descriptor).tablesAgree = false ∧
    ({ sample with enc := sample.enc.set 1 0x30#8 } : Descriptor).wf = false := by decide +kernel

/-! `ESZ` and `DMS`: 95_test_vectors.md part 2 (n = 4, 100 and n = 6, 7), S17 to S20. -/

theorem test_ESZ_HEXU : sizeOf .eszHexu 4 = some 8 ∧ sizeOf .eszHexu 100 = some 200 := by decide +kernel

theorem test_ESZ_HEXL : sizeOf .eszHexl 4 = some 8 ∧ sizeOf .eszHexl 100 = some 200 := by decide +kernel

theorem test_ESZ_B32 : sizeOf .eszB32 4 = some 8 ∧ sizeOf .eszB32 100 = some 160 := by decide +kernel

theorem test_ESZ_B32H : sizeOf .eszB32h 4 = some 8 ∧ sizeOf .eszB32h 100 = some 160 := by decide +kernel

theorem test_ESZ_B32C : sizeOf .eszB32c 4 = some 7 ∧ sizeOf .eszB32c 100 = some 160 := by decide +kernel

theorem test_ESZ_B64 : sizeOf .eszB64 4 = some 8 ∧ sizeOf .eszB64 100 = some 136 := by decide +kernel

theorem test_ESZ_B64U : sizeOf .eszB64u 4 = some 8 ∧ sizeOf .eszB64u 100 = some 136 := by decide +kernel

theorem test_ESZ_B64UN : sizeOf .eszB64un 4 = some 6 ∧ sizeOf .eszB64un 100 = some 134 := by decide +kernel

theorem test_DMS_HEXU : sizeOf .dmsHexu 7 = some 3 ∧ sizeOf .dmsHexu 6 = some 3 := by decide +kernel

theorem test_DMS_HEXL : sizeOf .dmsHexl 7 = some 3 ∧ sizeOf .dmsHexl 6 = some 3 := by decide +kernel

theorem test_DMS_B32 : sizeOf .dmsB32 7 = some 4 ∧ sizeOf .dmsB32 6 = some 0 := by decide +kernel

theorem test_DMS_B32H : sizeOf .dmsB32h 7 = some 4 ∧ sizeOf .dmsB32h 6 = some 0 := by decide +kernel

theorem test_DMS_B32C : sizeOf .dmsB32c 7 = some 4 ∧ sizeOf .dmsB32c 6 = some 3 := by decide +kernel

theorem test_DMS_B64 : sizeOf .dmsB64 7 = some 5 ∧ sizeOf .dmsB64 6 = some 4 := by decide +kernel

theorem test_DMS_B64U : sizeOf .dmsB64u 7 = some 5 ∧ sizeOf .dmsB64u 6 = some 4 := by decide +kernel

theorem test_DMS_B64UN : sizeOf .dmsB64un 7 = some 5 ∧ sizeOf .dmsB64un 6 = some 4 := by decide +kernel

/-! `ENC`: 95_test_vectors.md part 3, and S1, S7. -/

theorem test_ENC_HEXU : outOf .encHexu [0x66#8, 0x6F#8, 0x6F#8] =
    some (.none, 9, [0x36#8, 0x36#8, 0x36#8, 0x46#8, 0x36#8, 0x46#8]) := by decide +kernel

theorem test_ENC_HEXL : outOf .encHexl [0x66#8, 0x6F#8, 0x6F#8] =
    some (.none, 9, [0x36#8, 0x36#8, 0x36#8, 0x66#8, 0x36#8, 0x66#8]) := by decide +kernel

theorem test_ENC_B32 : outOf .encB32 [0x66#8] =
    some (.none, 9, [0x4D#8, 0x59#8, 0x3D#8, 0x3D#8, 0x3D#8, 0x3D#8, 0x3D#8, 0x3D#8]) := by decide +kernel

theorem test_ENC_B32H : outOf .encB32h [0x66#8, 0x6F#8, 0x6F#8] =
    some (.none, 11, [0x43#8, 0x50#8, 0x4E#8, 0x4D#8, 0x55#8, 0x3D#8, 0x3D#8, 0x3D#8]) := by decide +kernel

theorem test_ENC_B32C : outOf .encB32c [0x48#8, 0x65#8, 0x6C#8, 0x6C#8, 0x6F#8, 0x20#8, 0x57#8, 0x6F#8, 0x72#8, 0x6C#8, 0x64#8] =
    some (.none, 29, [0x39#8, 0x31#8, 0x4A#8, 0x50#8, 0x52#8, 0x56#8, 0x33#8, 0x46#8, 0x34#8, 0x31#8, 0x42#8, 0x50#8, 0x59#8, 0x57#8, 0x4B#8, 0x43#8, 0x43#8, 0x47#8]) := by decide +kernel

theorem test_ENC_B64 : outOf .encB64 [0x66#8] =
    some (.none, 5, [0x5A#8, 0x67#8, 0x3D#8, 0x3D#8]) := by decide +kernel

theorem test_ENC_B64U : outOf .encB64u [0x66#8, 0x6F#8] =
    some (.none, 6, [0x5A#8, 0x6D#8, 0x38#8, 0x3D#8]) := by decide +kernel

theorem test_ENC_B64UN : outOf .encB64un [0x14#8, 0xFB#8, 0xBF#8, 0x03#8, 0xD9#8] =
    some (.none, 12, [0x46#8, 0x50#8, 0x75#8, 0x5F#8, 0x41#8, 0x39#8, 0x6B#8]) := by decide +kernel

/-! `DEC`: 95_test_vectors.md parts 1, 4 and 5: one accepted text and one error each. -/

theorem test_DEC_HEXU : outOf .decHexu [0x36#8, 0x66#8] =
    some (.none, 3, [0x6F#8]) := by decide +kernel

theorem test_DEC_HEXU_error : errOf .decHexu [0x30#8] = some .invalidInputLengthError := by decide +kernel

theorem test_DEC_HEXL : outOf .decHexl [0x36#8, 0x46#8] =
    some (.none, 3, [0x6F#8]) := by decide +kernel

theorem test_DEC_HEXL_error : errOf .decHexl [0x31#8, 0x67#8] = some .symbolError := by decide +kernel

theorem test_DEC_B32 : outOf .decB32 [0x4D#8, 0x5A#8, 0x58#8, 0x57#8, 0x36#8, 0x59#8, 0x54#8, 0x42#8, 0x4F#8, 0x49#8, 0x3D#8, 0x3D#8, 0x3D#8, 0x3D#8, 0x3D#8, 0x3D#8] =
    some (.none, 22, [0x66#8, 0x6F#8, 0x6F#8, 0x62#8, 0x61#8, 0x72#8]) := by decide +kernel

theorem test_DEC_B32_error : errOf .decB32 [0x4D#8, 0x5A#8, 0x58#8, 0x57#8, 0x36#8, 0x59#8, 0x54#8, 0x42#8, 0x4F#8, 0x49#8, 0x3D#8, 0x3D#8, 0x3D#8, 0x3D#8, 0x3D#8] = some .paddingError := by decide +kernel

theorem test_DEC_B32H : outOf .decB32h [0x43#8, 0x50#8, 0x4E#8, 0x4D#8, 0x55#8, 0x3D#8, 0x3D#8, 0x3D#8] =
    some (.none, 11, [0x66#8, 0x6F#8, 0x6F#8]) := by decide +kernel

theorem test_DEC_B32H_error : errOf .decB32h [0x43#8, 0x50#8, 0x4E#8, 0x4D#8, 0x55#8, 0x3D#8, 0x3D#8, 0x30#8] = some .symbolError := by decide +kernel

theorem test_DEC_B32C : outOf .decB32c [0x39#8, 0x31#8, 0x2D#8, 0x4A#8, 0x50#8, 0x52#8] =
    some (.none, 9, [0x48#8, 0x65#8, 0x6C#8]) := by decide +kernel

theorem test_DEC_B32C_error : errOf .decB32c [0x55#8] = some .symbolError := by decide +kernel

theorem test_DEC_B64 : outOf .decB64 [0x5A#8, 0x6D#8, 0x39#8, 0x76#8, 0x59#8, 0x6D#8, 0x46#8, 0x79#8] =
    some (.none, 14, [0x66#8, 0x6F#8, 0x6F#8, 0x62#8, 0x61#8, 0x72#8]) := by decide +kernel

theorem test_DEC_B64_error : errOf .decB64 [0x41#8, 0x41#8, 0x41#8, 0x41#8, 0x3D#8, 0x3D#8, 0x3D#8, 0x3D#8] = some .paddingError := by decide +kernel

theorem test_DEC_B64U : outOf .decB64u [0x5A#8, 0x6D#8, 0x38#8, 0x3D#8] =
    some (.none, 6, [0x66#8, 0x6F#8]) := by decide +kernel

theorem test_DEC_B64U_error : errOf .decB64u [0x5A#8, 0x6D#8, 0x38#8] = some .paddingError := by decide +kernel

theorem test_DEC_B64UN : outOf .decB64un [0x5A#8, 0x67#8] =
    some (.none, 3, [0x66#8]) := by decide +kernel

theorem test_DEC_B64UN_error : errOf .decB64un [0x5A#8, 0x67#8, 0x3D#8] = some .paddingError := by decide +kernel

/-! Reset and the host. -/

theorem test_reset_memory_wf : State.reset.mem.wf := by decide

/-- Each of the 32 words runs as the first command after reset (LEN = 0). -/
theorem test_step_runs_each_word_after_reset :
    ∀ w < 32, (nextOf (step (State.reset.withFetchWord 8 w))).map State.err = some .none := by decide +kernel

/-- The host program of 30_encoding.md R110 for `ESZ.B32C` on 4 reads RLEN = 7 (95_test_vectors.md S17). -/
theorem test_program_encoded_size :
    (nextOf (Host.Core.run core 5 { State.reset with pending := encodedSizeProgram .base32Crockford 4 })).map
      (fun t => t.readings) = some [.rlen 7] := by decide +kernel

/-- `decode` of `Zg` by base64_url_unpadded: `f` and no error (95_test_vectors.md S8; 30_encoding.md R111). -/
theorem test_program_decode :
    (nextOf (Host.Core.run core 12 { State.reset with pending := decodeProgram .base64UrlUnpadded [0x5A#8, 0x67#8] })).map
      (fun t => (t.readings, t.pending)) = some ([.outUnit 0 0x66#8, .rlen 1, .status 0x2#4], []) := by decide +kernel

/-- `decode` of `0` by hex_lower: the error and no unit; 0 is the only value RLEN can have (95_test_vectors.md P5). -/
theorem test_program_decode_error :
    (nextOf (Host.Core.run core 9 { State.reset with pending := decodeProgram .hexLower [0x30#8] })).map
      (fun t => (t.readings.tail, t.pending)) = some ([.status 0xA#4], []) := by decide +kernel

/-- A write of LEN keeps a number that fits; a write through OUT is seen through IN where the two share a unit. -/
theorem test_host_writes :
    (nextOf (step { State.reset with pending := [.writeLen 255] })).map State.len = some 255 ∧
    (nextOf (step { State.reset with outAt := 3, pending := [.writeOut 2 0x41#8] })).map (fun t => t.inUnit 5) =
      some 0x41#8 := by decide +kernel

/-- STATUS as the host reads it, from a call just started to each way a call ends (95_test_vectors.md part 7:
P1 steps 2 and 5, P5 steps 1 and 2, P4 step 3). -/
theorem test_status_words :
    (State.reset.startCall 0x05).status = 0x1#4 ∧
    statusOf .encB64 [0x66#8, 0x6F#8, 0x6F#8, 0x62#8, 0x61#8, 0x72#8] = some 0x2#4 ∧
    statusOf .decHexl [0x31#8, 0x67#8] = some 0x6#4 ∧ statusOf .decHexl [0x30#8] = some 0xA#4 ∧
    statusOf .decB64un [0x5A#8, 0x67#8, 0x3D#8] = some 0xE#4 := by decide +kernel


/-! Witnesses: each statement with hypotheses has a state and operands that meet them all. -/

/-- A call just started on a state. -/
def started (w : BitVec 5) (s : State) : State := s.startCall w

/-- `Zg==` in IN, room for one block. -/
def zg : State := placed [0x5A#8, 0x67#8, 0x3D#8, 0x3D#8] 3

/-- `f` in IN, room for one padded base64 block. -/
def f1 : State := placed [0x66#8] 4

theorem witness_DecoderRejectsWhatIsNoCommandWord :
    32 ≤ (0x20#8 : Byte).toNat ∧ (0x1F#8 : Byte).toNat < 32 := by decide

theorem witness_StepRunsTheDecodedCommand_alone :
    (started 0x15 f1).busy = true ∧ (started 0x15 f1).pending = [] := by decide

theorem witness_StepRunsTheDecodedCommand_waiting :
    ({ started 0x15 f1 with pending := [.waitDone, .readRlen] } : State).busy = true ∧
    ∃ rest, ({ started 0x15 f1 with pending := [.waitDone, .readRlen] } : State).pending = .waitDone :: rest :=
  ⟨by decide, _, rfl⟩

theorem witness_StartedWordIsRunNext : (0 < 32 ∧ 31 < 32) := by decide

theorem witness_CmdWriteStartsTheCall :
    let s := { f1 with pending := [.writeCmd 0x15] }
    s.busy = false ∧ s.pending = .writeCmd 0x15 :: [] ∧ s.premises (decodeCmd 0x15) :=
  ⟨by decide, rfl, premises_iff.1 (by decide +kernel)⟩

theorem witness_OnlyACmdWriteStartsACall :
    let s := { f1 with pending := [.writeCmd 0x15] }
    s.busy = false ∧ ∃ t, step s = .next t ∧ t.busy = true :=
  ⟨by decide, started 0x15 f1, rfl, by decide⟩

theorem witness_CommandRunsFromCmdWriteToDone :
    let s := { zg with pending := [.writeCmd 0x1D, .waitDone, .readStatus] }
    s.busy = false ∧ s.pending = .writeCmd 0x1D :: .waitDone :: [.readStatus] ∧ s.premises (decodeCmd 0x1D) :=
  ⟨by decide, rfl, premises_iff.1 (by decide +kernel)⟩

theorem witness_ResetEventClearsTheRegisters :
    let s := { f1 with pending := [.reset] }
    s.busy = false ∧ s.pending = .reset :: [] := by decide

theorem witness_ResetDuringACallAbandonsIt :
    let s := { started 0x15 f1 with pending := [.reset] }
    let u := { started 0x1D zg with pending := [.reset] }
    (s.busy = true ∧ s.pending = .reset :: []) ∧ (u.busy = true ∧ u.pending = .reset :: []) := by decide

/-- The largest LEN whose hexadecimal size fits LEN_W bits, whatever LEN_W is, and LEN = 0. -/
theorem witness_EszGivesTheEncodedSize :
    (Instr.eszHexu ∈ eszCommands ∧
      encodedSize Instr.eszHexu.record (sized ((2 ^ Config.lenW - 1) / 2)).operand < 2 ^ Config.lenW) ∧
    (Instr.eszB32 ∈ eszCommands ∧ encodedSize Instr.eszB32.record (sized 0).operand < 2 ^ Config.lenW) := by
  have hp : 0 < 2 ^ Config.lenW := Nat.two_pow_pos _
  refine ⟨⟨by decide, ?_⟩, by decide, hp⟩
  show (8 * ((2 ^ Config.lenW - 1) / 2) + 4 - 1) / 4 < _
  omega

theorem witness_DmsGivesTheDecodedMaxSize : Instr.dmsB32 ∈ dmsCommands ∧ Instr.dmsB64un ∈ dmsCommands := by decide

theorem witness_DataSymbolsOfAPartialGroup : 0 ≤ (rom .base32Hex).blockBytes ∧ 5 ≤ (rom .base32Hex).blockBytes := by
  decide

theorem witness_RemainderTableFunctions :
    (0 < (rom .base32Hex).blockSymbols ∧ validRem (rom .base32Hex) 0 = true) ∧
    (7 < (rom .base32Hex).blockSymbols ∧ validRem (rom .base32Hex) 7 = true ∧
      4 < (rom .base32Hex).blockBytes ∧ 7 = dataSymbols (rom .base32Hex) 4) ∧
    (6 < (rom .base32Hex).blockSymbols ∧ validRem (rom .base32Hex) 6 = false) := by decide +kernel

/-- The least LEN past the width limit of hexadecimal, whatever LEN_W is: it fits the register. -/
theorem witness_WidthLimitOfEszAndEnc :
    Instr.eszHexu ∈ eszCommands ++ encCommands ∧ Instr.encHexu ∈ eszCommands ++ encCommands ∧
    (2 ^ Config.lenW + 1) / 2 < 2 ^ Config.lenW ∧
    2 ^ Config.lenW ≤ encodedSize Instr.eszHexu.record (sized ((2 ^ Config.lenW + 1) / 2)).operand ∧
    exec .eszHexu (sized ((2 ^ Config.lenW + 1) / 2)) = .refused .lengthRange := by
  have hp := lenW_ge
  have h : 2 ^ Config.lenW ≤ encodedSize Instr.eszHexu.record (sized ((2 ^ Config.lenW + 1) / 2)).operand := by
    show _ ≤ (8 * ((2 ^ Config.lenW + 1) / 2) + 4 - 1) / 4
    omega
  refine ⟨by decide, by decide, by omega, h, ?_⟩
  rw [exec_eq_callOf, callOf_refused]
  have hf : ¬ fitsLen (encodedSize (rom .hexUpper) (sized ((2 ^ Config.lenW + 1) / 2)).len) = true := by
    rw [fitsLen_iff]; exact Nat.not_lt.2 h
  exact if_neg hf

/-- The largest admissible LEN for 32 bits and the next one (95_test_vectors.md part 2, width limits). -/
theorem test_width_limits_of_32_bits :
    fitsBits 32 (encodedSize (rom .hexUpper) 2147483647) = true ∧ fitsBits 32 (encodedSize (rom .hexUpper) 2147483648) = false ∧
    fitsBits 32 (encodedSize (rom .base64Rfc4648) 3221225469) = true ∧
    fitsBits 32 (encodedSize (rom .base64Rfc4648) 3221225470) = false ∧
    fitsBits 32 (encodedSize (rom .base32Rfc4648) 2684354555) = true ∧
    fitsBits 32 (encodedSize (rom .base32Rfc4648) 2684354556) = false := by decide +kernel

/-- One call refused for each premise, exactly at its bound: OUT one unit short; the first unit of OUT the last of
IN, and the last of OUT the first of IN. Where they only touch, or OUT meets units past LEN alone, the call runs. -/
theorem witness_CallsAreRefusedExactlyForABrokenPremise :
    stopOf (exec .encB64 { f1 with outCap := 3 }) = some .sinkTooSmall ∧
    stopOf (exec .decB64 { zg with outCap := 2 }) = some .sinkTooSmall ∧
    stopOf (exec .decB64 { zg with outAt := 3 }) = some .buffersOverlap ∧
    stopOf (exec .decB64 { zg with outAt := 4 }) = none ∧
    stopOf (exec .encB64 { f1 with inAt := 3, outAt := 0 }) = some .buffersOverlap ∧
    stopOf (exec .encB64 { f1 with inAt := 4, outAt := 0 }) = none ∧
    stopOf (exec .encB64 { f1 with outAt := 1 }) = none ∧
    stopOf (exec .encHexl { sized 0 with outAt := 0 }) = none := by decide +kernel

/-- The write of CMD, refused and not. -/
theorem witness_CallsAreRefusedAtTheWrite :
    (f1.busy = false ∧ ({ f1 with outCap := 3, pending := [.writeCmd 0x15] } : State).pending = .writeCmd 0x15 :: []) ∧
    stopOf (step { f1 with outCap := 3, pending := [.writeCmd 0x15] }) = some .sinkTooSmall ∧
    stopOf (step { f1 with outCap := 4, pending := [.writeCmd 0x15] }) = none := by decide +kernel

theorem witness_CommandFrame : ∃ t, exec .decB64 zg = .next t := next_of_nextOf (by decide +kernel)

theorem witness_SinkWriteFrame :
    (∃ t, exec .eszB64 f1 = .next t) ∧ (∃ t, exec .encB64 f1 = .next t) ∧ (∃ t, exec .decB64 zg = .next t) ∧
    ∃ t, exec .decB64 (placed [0x41#8] 0) = .next t :=
  ⟨next_of_nextOf (by decide +kernel), next_of_nextOf (by decide +kernel), next_of_nextOf (by decide +kernel),
    next_of_nextOf (by decide +kernel)⟩

/-- `Zg=` under the optional policy (95_test_vectors.md S10), and a `DEC` of a forbidden one. -/
theorem witness_ErrorsOfEachCommand :
    errOf .decB64un [0x5A#8, 0x67#8, 0x3D#8] = some .paddingError ∧ Instr.decB64un.record.padPolicy = .optional ∧
    Instr.decB32c.record.padPolicy = .forbidden ∧ errOf .decB32c [0x30#8] = some .invalidInputLengthError ∧
    errOf .encB64 [0x66#8] = some .none := by decide +kernel

/-- Capacity exactly the size, for one partial group and for no input at all. -/
theorem witness_EncWritesTheEncodedText :
    (Instr.encB64 ∈ encCommands ∧ f1.encPremises Instr.encB64.record) ∧
    (Instr.encB32 ∈ encCommands ∧ (placed [] 0).encPremises Instr.encB32.record) :=
  ⟨⟨by decide, (premises_iff (i := .encB64)).1 (by decide +kernel)⟩, by decide,
    (premises_iff (i := .encB32)).1 (by decide +kernel)⟩

/-- `f` once in memory and once elsewhere, for the two pairs of commands. -/
theorem witness_EncoderVariantsDifferInCaseOrPadsOnly :
    let u := { f1 with mem := [(7, 0x66#8)], inAt := 7, outAt := 20 }
    u.len = f1.len ∧ (∀ k < f1.operand, u.inUnit k = f1.inUnit k) ∧
    (nextOf (exec .encHexu f1)).isSome = true ∧ (nextOf (exec .encHexl u)).isSome = true ∧
    (nextOf (exec .encB64un f1)).isSome = true ∧ (nextOf (exec .encB64u u)).isSome = true := by decide +kernel

theorem witness_GroupRegisterFieldsArePack :
    ([] : List Byte).length ≤ (rom .base32Rfc4648).blockBytes ∧
    [1#8, 2#8, 3#8, 4#8, 5#8].length ≤ (rom .base32Rfc4648).blockBytes := by decide

theorem witness_EncoderEmitsAlphabetOrPad :
    Instr.encB64 ∈ encCommands ∧ (∃ t, exec .encB64 f1 = .next t) ∧
    3 < encodedSize Instr.encB64.record f1.operand :=
  ⟨by decide, next_of_nextOf (by decide +kernel), by decide +kernel⟩

/-- One scan that ends early and one that does not. -/
theorem witness_ScanCountsTheCharacters :
    hasInvalid (rom .base64Rfc4648) (placed [0x20#8] 0).inputUnits = true ∧
    (scanUnits (rom .base64Rfc4648) (placed [0x20#8] 0).operand ((placed [0x20#8] 0).startPhase .scan)).isNone = true ∧
    (scanUnits (rom .base64Rfc4648) zg.operand (zg.startPhase .scan)).isSome = true := by decide +kernel

/-- Every line of the decision list, base64_url_unpadded (`Zg`, ` `, `=A`, `Zg=`, `A`, `AAAA====`). -/
theorem witness_DecEndsWithTheVerdictOfItsText :
    (Instr.decB64un ∈ decCommands ∧
      (nextOf (exec .decB64un (placed [0x5A#8, 0x67#8] 1))).isSome = true) ∧
    verdict (rom .base64UrlUnpadded) [0x5A#8, 0x67#8] = .none ∧
    verdict (rom .base64UrlUnpadded) [0x20#8] = .symbolError ∧
    (hasInvalid (rom .base64UrlUnpadded) [0x3D#8, 0x41#8] = false ∧
      verdict (rom .base64UrlUnpadded) [0x3D#8, 0x41#8] = .symbolError) ∧
    verdict (rom .base64UrlUnpadded) [0x5A#8, 0x67#8, 0x3D#8] = .paddingError ∧
    verdict (rom .base64UrlUnpadded) [0x41#8] = .invalidInputLengthError ∧
    verdict (rom .base64UrlUnpadded) [0x41#8, 0x41#8, 0x41#8, 0x41#8, 0x3D#8, 0x3D#8, 0x3D#8, 0x3D#8] =
      .paddingError := by decide +kernel

theorem zg_premises : zg.decPremises Instr.decB64.record := (premises_iff (i := .decB64)).1 (by decide +kernel)

theorem witness_DecEndsWithTheVerdictOfItsText_premises :
    (placed [0x5A#8, 0x67#8] 1).decPremises Instr.decB64un.record :=
  (premises_iff (i := .decB64un)).1 (by decide +kernel)

theorem witness_DecWritesTheDecodedBytes :
    Instr.decB64 ∈ decCommands ∧ zg.decPremises Instr.decB64.record ∧
    verdict Instr.decB64.record zg.inputUnits = .none := ⟨by decide, zg_premises, by decide +kernel⟩

theorem witness_DecResultIsBoundedByDms :
    Instr.decB64 ∈ decCommands ∧ (∃ t, exec .decB64 zg = .next t) ∧ ∃ t, exec .decB64 (placed [0x41#8] 0) = .next t :=
  ⟨by decide, next_of_nextOf (by decide +kernel), next_of_nextOf (by decide +kernel)⟩

theorem witness_DecodeOfEncodeGivesTheBytesBack :
    Instr.encB64 ∈ encCommands ∧ Instr.decB64 ∈ decCommands ∧ Instr.decB64.variant = Instr.encB64.variant ∧
    (nextOf (exec .encB64 f1)).any (fun t =>
      decide (zg.len = t.rlen ∧ ∀ j < t.rlen, zg.inUnit j = t.outUnit j)) = true ∧
    zg.decPremises Instr.decB64.record := ⟨by decide, by decide, rfl, by decide +kernel, zg_premises⟩

/-- The bounds of the premises: seven pending bits, all ones, and the greatest value of each width. -/
theorem witness_AbsorbingASymbolKeepsThePendingBits :
    (7#4 : BitVec 4).toNat ≤ 7 ∧ (127#13 : BitVec 13).toNat < 2 ^ (7#4 : BitVec 4).toNat ∧
    (63#8 : Byte).toNat < 2 ^ (rom .base64Url).bitsPerSymbol ∧ (31#8 : Byte).toNat < 2 ^ (rom .base32Hex).bitsPerSymbol ∧
    (15#8 : Byte).toNat < 2 ^ (rom .hexLower).bitsPerSymbol ∧
    (0#4 : BitVec 4).toNat ≤ 7 ∧ (0#13 : BitVec 13).toNat < 2 ^ (0#4 : BitVec 4).toNat := by decide

/-- `6F` and `6f` under hex_lower. -/
theorem witness_CaseFlipDecodesTheSame :
    let s := placed [0x36#8, 0x46#8] 1
    let u := placed [0x36#8, 0x66#8] 1
    Instr.decHexl ∈ decCommands ∧ caseInsensitive Instr.decHexl.variant = true ∧ u.len = s.len ∧
    (∀ k < s.operand, u.inUnit k = (if lowerOf (s.inUnit k) = s.inUnit k then upperOf (s.inUnit k)
      else lowerOf (s.inUnit k))) ∧
    (nextOf (exec .decHexl s)).isSome = true ∧ (nextOf (exec .decHexl u)).isSome = true := by decide +kernel

/-- `C-R` and `CR` under base32_crockford. -/
theorem witness_IgnoredCharactersAreSkipped :
    let s := placed [0x43#8, 0x2D#8, 0x52#8] 1
    let u := placed [0x43#8, 0x52#8] 1
    Instr.decB32c ∈ decCommands ∧
    s.inputUnits.filter (fun c => !Instr.decB32c.record.ignAt c) =
      u.inputUnits.filter (fun c => !Instr.decB32c.record.ignAt c) ∧
    (nextOf (exec .decB32c s)).isSome = true ∧ (nextOf (exec .decB32c u)).isSome = true := by decide +kernel

/-- `Zg==` and `Zh==` agree on the facts; ` A` and ` ` share an invalid first character. -/
theorem witness_VerdictDependsOnFiveFacts :
    let u := placed [0x5A#8, 0x68#8, 0x3D#8, 0x3D#8] 3
    let s' := placed [0x20#8, 0x41#8] 1
    let u' := placed [0x20#8] 0
    let D := Instr.decB64.record
    Instr.decB64 ∈ decCommands ∧
    ((nextOf (exec .decB64 zg)).isSome = true ∧ (nextOf (exec .decB64 u)).isSome = true ∧
      hasInvalid D zg.inputUnits = hasInvalid D u.inputUnits ∧
      hasDataAfterPad D zg.inputUnits = hasDataAfterPad D u.inputUnits ∧
      (dataValues D zg.inputUnits).length = (dataValues D u.inputUnits).length ∧
      padCountOf D zg.inputUnits = padCountOf D u.inputUnits) ∧
    ((nextOf (exec .decB64 s')).isSome = true ∧ (nextOf (exec .decB64 u')).isSome = true ∧
      0 < s'.operand ∧ 0 < u'.operand ∧ (∀ j ≤ 0, s'.inUnit j = u'.inUnit j) ∧
      classify D (s'.inUnit 0) = .invalid) := by decide +kernel

/-- `Zg==` (tail bits 0) and `Zv==` (tail bits 15), and the base32 text `MY======` with `MZ======`. -/
theorem witness_TailBitsAreNotLookedAt :
    let v := placed [0x5A#8, 0x76#8, 0x3D#8, 0x3D#8] 3
    (zg.len = 4 ∧ zg.inUnit 0 = 0x5A#8 ∧ zg.inUnit 1 = (rom .base64Rfc4648).encAt (32 + 0) ∧
      zg.inUnit 2 = equalsSign ∧ zg.inUnit 3 = equalsSign ∧ zg.decPremises (rom .base64Rfc4648)) ∧
    (v.len = 4 ∧ v.inUnit 0 = 0x5A#8 ∧ v.inUnit 1 = (rom .base64Rfc4648).encAt (32 + 15) ∧
      v.inUnit 2 = equalsSign ∧ v.inUnit 3 = equalsSign ∧ v.decPremises (rom .base64Rfc4648)) :=
  ⟨⟨by decide, by decide +kernel, by decide +kernel, by decide +kernel, by decide +kernel, zg_premises⟩,
    by decide, by decide +kernel, by decide +kernel, by decide +kernel, by decide +kernel,
    (premises_iff (i := .decB64)).1 (by decide +kernel)⟩

theorem witness_TailBitsAreNotLookedAt_base32 :
    let pads := List.replicate 6 equalsSign
    let s := placed ([0x4D#8, 0x59#8] ++ pads) 5
    let u := placed ([0x4D#8, 0x5A#8] ++ pads) 5
    let D := Instr.decB32.record
    Instr.decB32 ∈ decCommands ∧ u.len = s.len ∧ 1 < s.operand ∧
    (∀ j < s.operand, j ≠ 1 → u.inUnit j = s.inUnit j) ∧
    classify D (s.inUnit 1) = .data 24#8 ∧ classify D (u.inUnit 1) = .data 25#8 ∧
    (∀ j < s.operand, 1 < j → (classify D (s.inUnit j)).isData = false) ∧
    (dataValues D s.inputUnits).length * D.bitsPerSymbol % 8 = 2 ∧ (24#8 : Byte).toNat / 2 ^ 2 = (25#8 : Byte).toNat / 2 ^ 2 ∧
    (nextOf (exec .decB32 s)).isSome = true ∧ (nextOf (exec .decB32 u)).isSome = true := by decide +kernel

theorem witness_BlockLayouts :
    (rom .hexUpper).bitsPerSymbol = 4 ∧ (rom .base32Rfc4648).bitsPerSymbol = 5 ∧
    (rom .base64Rfc4648).bitsPerSymbol = 6 := by decide

theorem witness_UnpackOfPackIsTheGroup :
    (1 ≤ [0xFF#8].length ∧ [0xFF#8].length ≤ (rom .base32Hex).blockBytes) ∧
    (1 ≤ [1#8, 2#8, 3#8, 4#8, 5#8].length ∧
      [1#8, 2#8, 3#8, 4#8, 5#8].length ≤ (rom .base32Hex).blockBytes) := by decide

theorem witness_RecordsAreWellFormed :
    0 < 2 ^ (rom .base64Url).bitsPerSymbol ∧ 63 < 2 ^ (rom .base64Url).bitsPerSymbol := by decide

/-- The bounds of the invalid ranges, and valid characters next to them. -/
theorem witness_ClassesOfSpecialCharacters :
    ((0x20#8 : Byte).toNat < 0x21 ∨ 0x7F ≤ (0x20#8 : Byte).toNat) ∧
    ((0x7F#8 : Byte).toNat < 0x21 ∨ 0x7F ≤ (0x7F#8 : Byte).toNat) ∧
    ((0xFF#8 : Byte).toNat < 0x21 ∨ 0x7F ≤ (0xFF#8 : Byte).toNat) := by decide

/-- A call just started on a state that is idle, with legal lengths and memory, meets the invariant. -/
theorem started_inv {s : State} {w : BitVec 5} (hw : s.widthsLegal) (hm : s.mem.wf)
    (hp : s.callRefusal (decodeCmd w).op (decodeCmd w).record = none) : (started w s).Inv := by
  have h0 : 0 < 2 ^ Config.lenW := Nat.two_pow_pos _
  have hs : (started w s).status = statusBusy := rfl
  have hb := busy_of_statusBusy hs
  have hd := done_of_statusBusy hs
  have he := err_of_statusBusy hs
  refine ⟨⟨by simp [hd], ?_, fun _ => he⟩, fun _ => ⟨rfl, rfl, hp⟩, ?_, ⟨hw.1, h0, h0, h0, h0⟩, hm⟩
  · rw [hb]
    show firstPhase (decodeCmd w).op = .idle ↔ true = false
    cases (decodeCmd w).op <;> simp [firstPhase]
  · simp [State.errLegal, he]

theorem small_lt {n : Nat} (h : n < 256) : n < 2 ^ Config.lenW :=
  Nat.lt_of_lt_of_le h lenW_ge

theorem f1_started_inv : (started 0x15 f1).Inv :=
  started_inv ⟨small_lt (by decide), small_lt (by decide), small_lt (by decide), small_lt (by decide),
    small_lt (by decide)⟩ (by decide) (by decide +kernel)

theorem zg_started_inv : (started 0x1D zg).Inv :=
  started_inv ⟨small_lt (by decide), small_lt (by decide), small_lt (by decide), small_lt (by decide),
    small_lt (by decide)⟩ (by decide) (by decide +kernel)

/-- From the state of a running call (an engine step), and from one whose next host action is a reset. -/
theorem witness_EveryStepKeepsTheInvariant :
    (started 0x15 f1).Inv ∧ ∃ t, step (started 0x15 f1) = .next t :=
  ⟨f1_started_inv, next_of_nextOf (by decide +kernel)⟩

theorem witness_AStartedCallEnds :
    (started 0x1D zg).Inv ∧ (started 0x1D zg).busy = true ∧ (started 0x1D zg).engineTurn = true :=
  ⟨zg_started_inv, by decide, by decide⟩

/-- A busy state with any one action to come. -/
def busyWith (a : HostAction) : State := { started 0x15 f1 with pending := [a] }

theorem witness_BusyHazardsAreRefused :
    ∀ a ∈ [HostAction.writeCmd 0x1F, .writeLen 0, .writeIn 0 0x41#8, .readIn 0, .writeOut 0 0x41#8, .readOut 0],
      (busyWith a).busy = true ∧ (busyWith a).pending = a :: [] := by decide

theorem witness_RegisterReadsHaveNoSideEffect :
    ∀ a ∈ [HostAction.readStatus, .readCmd, .readLen, .readRlen],
      ((busyWith a).busy = true ∧ (busyWith a).pending = a :: []) ∧
      (({ f1 with pending := [a] } : State).busy = false ∧ ({ f1 with pending := [a] } : State).pending = a :: []) := by
  decide

/-- Host writes and unit reads while idle, at the first and the last index. -/
theorem witness_HostAccessesWhileIdle :
    ∀ a ∈ [HostAction.writeLen 255, .writeLen 0xFFFFFFFFFFFFFFFF, .writeIn 0 0x41#8, .writeIn 0xFFFFFFFF 0x41#8, .writeOut 0 0x41#8,
        .readIn 0, .readIn 0xFFFFFFFF, .readOut 0],
      ({ f1 with pending := [a] } : State).busy = false ∧ ({ f1 with pending := [a] } : State).pending = a :: [] := by
  decide

theorem witness_NothingChangesBetweenCalls : State.reset.busy = false ∧ State.reset.pending = [] := by decide

/-- The last two readings at the branch: a STATUS without an error, and one with. -/
theorem witness_DecodeReturnsItsUnitsOnlyOnSuccess :
    let s := fun v : BitVec 4 => { f1 with pending := [HostAction.returnUnits], readings := [.rlen 1, .status v] }
    ((s 0x2#4).pending = .returnUnits :: [] ∧ (s 0x2#4).readings = .rlen 1 :: .status 0x2#4 :: [] ∧
      (0x2#4).extractLsb' 2 2 = 0#2) ∧
    ((s 0xE#4).pending = .returnUnits :: [] ∧ (s 0xE#4).readings = .rlen 1 :: .status 0xE#4 :: [] ∧
      (0xE#4).extractLsb' 2 2 ≠ 0#2) := by decide

/-- The same input under different registers, capacity and history. -/
theorem witness_CallsAreIndependent :
    let u := { zg with outCap := 9, cmd := 3, acc := 5, outAt := 50, draws := 7 }
    u.len = zg.len ∧ (∀ k < zg.operand, u.inUnit k = zg.inUnit k) ∧
    (nextOf (exec .decB64 zg)).isSome = true ∧ (nextOf (exec .decB64 u)).isSome = true := by decide +kernel

/-- A call starts, a call of each kind of end, a read of STATUS while idle. -/
theorem witness_StatusWordOfEachOutcome :
    let s := { f1 with pending := [.writeCmd 0x15] }
    let r := { f1 with pending := [.readStatus] }
    (s.busy = false ∧ s.pending = .writeCmd 0x15 :: [] ∧ (nextOf (step s)).isSome = true) ∧
    (∀ bytes ∈ [[0x5A#8, 0x67#8], [0x20#8], [0x41#8], [0x5A#8, 0x67#8, 0x3D#8]],
      (nextOf (exec .decB64un (placed bytes 64))).isSome = true) ∧
    (r.busy = false ∧ r.pending = .readStatus :: []) := by decide +kernel

end Sys2Proof.Tests
end

section
/-! PROOFS. The invariant of the states between steps (10_state.md R22 to R35): RLEN stays a number of LEN_W
bits in every call, each way a call or a host action can end keeps the invariant, and so does every step. -/

namespace Sys2Proof.Machine

/-! The size of an encode, group by group (41_size.md R174). -/

theorem ceilDiv_add_mul (a c : Nat) {b : Nat} (hb : 0 < b) : ceilDiv (a + c * b) b = ceilDiv a b + c := by
  unfold ceilDiv
  rw [show a + c * b + b - 1 = a + b - 1 + c * b by omega, Nat.add_mul_div_right _ _ hb]

/-- A full block more is `bsc` symbols more, in both size classes. -/
theorem encodedSize_blockBytes_add (v : Variant) (n : Nat) :
    encodedSize (rom v) ((rom v).blockBytes + n) = (rom v).blockSymbols + encodedSize (rom v) n := by
  obtain ⟨hbps, -, hbbc, -, hblock⟩ := rom_block v
  unfold encodedSize
  split
  · rw [Nat.add_div_left _ hbbc, Nat.add_mod_left, Nat.succ_mul]
    omega
  · rw [show 8 * ((rom v).blockBytes + n) = 8 * n + (rom v).blockSymbols * (rom v).bitsPerSymbol by omega,
      ceilDiv_add_mul _ _ hbps, Nat.add_comm]

@[simp] theorem encodedSize_zero (v : Variant) : encodedSize (rom v) 0 = 0 := by cases v <;> decide

/-- The text of `n` bytes is the text of its first group and the text of the rest (42_encode.md R191). -/
theorem encodedSize_eq_firstGroup_add (v : Variant) (n : Nat) :
    encodedSize (rom v) n = encodedSize (rom v) (min (rom v).blockBytes n) +
      encodedSize (rom v) (n - min (rom v).blockBytes n) := by
  rcases Nat.le_total n (rom v).blockBytes with hn | hn
  · simp [Nat.min_eq_right hn]
  · obtain ⟨k, rfl⟩ := Nat.exists_eq_add_of_le hn
    have hfull := encodedSize_blockBytes_add v 0
    rw [Nat.min_eq_left hn, Nat.add_sub_cancel_left, encodedSize_blockBytes_add]
    simp_all

/-- A group of 1 to `bbc` bytes gives as many units as its size says (42_encode.md R192 to R195). -/
theorem groupSymbols_length (v : Variant) (grp : BitVec 40) {r : Nat} (h0 : 0 < r)
    (hr : r ≤ (rom v).blockBytes) : (groupSymbols (rom v) grp r).length = encodedSize (rom v) r := by
  have hsize : ∀ r ≤ (rom v).blockBytes, 0 < r →
      dataSymbols (rom v) r + (if r < (rom v).blockBytes ∧ (rom v).padded then
        (rom v).blockSymbols - dataSymbols (rom v) r else 0) = encodedSize (rom v) r := by
    cases v <;> decide
  rw [← hsize r hr h0]
  simp only [groupSymbols, List.length_append, List.length_map, List.length_range]
  split <;> simp

/-! RLEN in the encoder's loop. -/

/-- GRP_N holds the length of the group: a block has fewer than 8 bytes (10_state.md R27). -/
theorem loadGroup_grpN_toNat (D : Descriptor) (s : State) : (loadGroup D s).grpN.toNat = groupLength D s := by
  have hbbc : D.blockBytes < 8 := D.bbc.isLt
  rw [loadGroup_grpN, BitVec.toNat_ofNat, Nat.mod_eq_of_lt]
  exact Nat.lt_of_le_of_lt (Nat.min_le_left _ _) hbbc

theorem emitGroup_loadGroup_idx (D : Descriptor) (s : State) :
    (emitGroup D (loadGroup D s)).idx = s.idx + groupLength D s := by
  simp only [emitGroup, loadGroup_grpN_toNat]
  rw [State.appendAll_eq, loadGroup_idx]

theorem emitGroup_loadGroup_rlen (v : Variant) {s : State} (h : s.idx < s.operand) :
    (emitGroup (rom v) (loadGroup (rom v) s)).rlen =
      s.rlen + encodedSize (rom v) (groupLength (rom v) s) := by
  obtain ⟨-, -, hbbc, -, -⟩ := rom_block v
  have hr : groupLength (rom v) s ≤ (rom v).blockBytes := Nat.min_le_left _ _
  have h0 : 0 < groupLength (rom v) s := Nat.lt_min.2 ⟨hbbc, Nat.sub_pos_of_lt h⟩
  simp only [emitGroup, State.appendAll_rlen, loadGroup_rlen, loadGroup_grpN_toNat, groupSymbols_length v _ h0 hr]

/-- The encoder's loop advances RLEN by the size of the input still to come (42_encode.md R197). -/
theorem encodeGroups_rlen (v : Variant) (n : Nat) (s : State) (h : s.operand - s.idx ≤ n) :
    (encodeGroups (rom v) n s).rlen = s.rlen + encodedSize (rom v) (s.operand - s.idx) := by
  induction n generalizing s with
  | zero => rw [Nat.le_zero.1 h, encodedSize_zero]; rfl
  | succ n ih =>
    simp only [encodeGroups]
    split
    case isFalse hidx => rw [Nat.sub_eq_zero_of_le (Nat.le_of_not_lt hidx), encodedSize_zero, Nat.add_zero]
    case isTrue hidx =>
      obtain ⟨-, -, hbbc, -, -⟩ := rom_block v
      have h0 : 0 < groupLength (rom v) s := Nat.lt_min.2 ⟨hbbc, Nat.sub_pos_of_lt hidx⟩
      have hop : (emitGroup (rom v) (loadGroup (rom v) s)).operand = s.operand := by
        rw [emitGroup_eq]; rfl
      have hrest : s.operand - (emitGroup (rom v) (loadGroup (rom v) s)).idx =
          s.operand - s.idx - groupLength (rom v) s := by
        rw [emitGroup_loadGroup_idx, Nat.sub_add_eq]
      rw [ih _ (by omega), hop, hrest, emitGroup_loadGroup_rlen v hidx, Nat.add_assoc,
        encodedSize_eq_firstGroup_add v (s.operand - s.idx)]
      rfl

/-! RLEN in the decoder's emission: at most one unit for each unit read. -/

theorem State.absorb_rlen_le (D : Descriptor) (s : State) (v : Byte) : (s.absorb D v).rlen ≤ s.rlen + 1 := by
  simp only [State.absorb]
  split
  · exact Nat.le_refl _
  · exact Nat.le_succ _

theorem emitUnit_rlen_le (D : Descriptor) (s : State) : (emitUnit D s).rlen ≤ s.rlen + 1 := by
  unfold emitUnit
  split
  · exact State.absorb_rlen_le D s _
  · exact Nat.le_succ _

@[simp] theorem emitUnit_idx (D : Descriptor) (s : State) : (emitUnit D s).idx = s.idx + 1 := by
  unfold emitUnit
  split
  · rw [State.nextUnit_idx, State.absorb_eq]
  · rfl

@[simp] theorem emitUnit_len (D : Descriptor) (s : State) : (emitUnit D s).len = s.len := by rw [emitUnit_eq]

/-- The emission writes no more units than there are in the input (41_size.md R178). -/
theorem emitUnits_rlen_le (D : Descriptor) (n : Nat) {s : State} (hr : s.rlen ≤ s.idx) (hi : s.idx ≤ s.len) :
    (emitUnits D n s).rlen ≤ s.len := by
  induction n generalizing s with
  | zero => exact Nat.le_trans hr hi
  | succ n ih =>
    simp only [emitUnits]
    split
    case isFalse => exact Nat.le_trans hr hi
    case isTrue hidx =>
      have hle := emitUnit_rlen_le D s
      simpa using ih (s := emitUnit D s) (by rw [emitUnit_idx]; omega)
        (by rw [emitUnit_idx, emitUnit_len]; exact hidx)

/-! What a command leaves in the registers. -/

/-- A command keeps CMD and LEN (10_state.md R21, R22). -/
theorem exec_cmd_len {i : Instr} {s t : State} (h : exec i s = .next t) : t.cmd = s.cmd ∧ t.len = s.len := by
  obtain ⟨-, u, hu, rfl | ⟨e, -, -, -, -, rfl⟩⟩ := exec_next h
  · rw [hu]; exact ⟨rfl, rfl⟩
  · obtain ⟨hcmd, hlen, -⟩ := u.raise_frame e (decodedMaxSize i.record s.operand)
    rw [hcmd, hlen, hu]
    exact ⟨rfl, rfl⟩

/-- A command that answers a next state has ended (60_exceptions.md R254). -/
theorem exec_ended {i : Instr} {s t : State} (h : exec i s = .next t) : t.ended t.err := by
  obtain ⟨-, u, -, rfl | ⟨e, -, -, -, -, rfl⟩⟩ := exec_next h
  · rw [u.finish_ended.1]; exact u.finish_ended
  · rw [(u.raise_ended e _).1]; exact u.raise_ended e _

/-- RLEN after a command is a number of LEN_W bits: a size that the premises bound, or at most LEN (41_size.md
R178). -/
theorem exec_rlen_lt {i : Instr} {s t : State} (h : exec i s = .next t) (hlen : s.len < 2 ^ Config.lenW) :
    t.rlen < 2 ^ Config.lenW := by
  have hprem : s.premises i := premises_iff.1 (exec_next h).1
  have hmax : decodedMaxSize i.record s.operand ≤ s.len := decodedMaxSize_le i.variant s.len
  rw [exec_eq_callOf] at h
  unfold State.premises at hprem
  cases hop : i.op <;> rw [hop] at h hprem
  case esz =>
    obtain ⟨-, rfl⟩ := eszCall_next h
    exact hprem
  case dms =>
    cases h
    exact Nat.lt_of_le_of_lt hmax hlen
  case enc =>
    obtain ⟨-, rfl⟩ := encCall_next h
    have hrlen := encodeGroups_rlen i.variant s.operand (s.startPhase .emit) (Nat.le_refl _)
    have hstart : (s.startPhase .emit).rlen + encodedSize i.record ((s.startPhase .emit).operand - 0) =
        encodedSize i.record s.operand := Nat.zero_add _
    exact Nat.lt_of_le_of_lt (Nat.le_of_eq (hrlen.trans hstart)) hprem.1
  case dec =>
    have raised : ∀ (u : State) (e : Err),
        (u.raise e (decodedMaxSize i.record s.operand)).rlen < 2 ^ Config.lenW := fun u e =>
      Nat.lt_of_le_of_lt (Nat.le_trans (rlenUpTo_le _ _) hmax) hlen
    obtain ⟨-, ⟨-, rfl⟩ | ⟨u, hu, ⟨-, rfl⟩ | ⟨-, rfl⟩⟩⟩ := decCall_next h
    · exact raised s _
    · exact raised u _
    · have hulen : u.len = s.len := by rw [scanUnits_eq hu]; rfl
      have hle := emitUnits_rlen_le i.record s.operand (s := u.beginEmit) (Nat.le_refl 0) (Nat.zero_le _)
      exact Nat.lt_of_le_of_lt hle (by rw [State.beginEmit_len, hulen]; exact hlen)

/-- After a command every length register holds a number of LEN_W bits. -/
theorem exec_widthsLegal {i : Instr} {s t : State} (h : exec i s = .next t) (hlen : s.len < 2 ^ Config.lenW) :
    t.widthsLegal := by
  have hrlen := exec_rlen_lt h hlen
  obtain ⟨-, htlen⟩ := exec_cmd_len h
  obtain ⟨-, u, -, rfl | ⟨e, -, -, -, -, rfl⟩⟩ := exec_next h <;>
    exact ⟨htlen ▸ hlen, hrlen, leftoverLen_lt _ _, leftoverLen_lt _ _, leftoverLen_lt _ _⟩

/-- Under policy `forbidden` nothing is validated as padded, so the checks raise no padding error (43_decode.md
R217 to R220). -/
theorem checkCounts_ne_paddingError {D : Descriptor} (h : D.padPolicy = .forbidden) (dap : Bool)
    (dataCount padCount : Nat) : checkCounts D dap dataCount padCount ≠ .paddingError := by
  have hform : paddedForm D padCount = false := by simp [paddedForm, h]
  simp only [checkCounts, hform, Bool.false_eq_true, false_and, if_false]
  split
  · simp
  · split <;> simp

/-- Which error a command can end with (60_exceptions.md R255). -/
theorem exec_err {i : Instr} {s t : State} (h : exec i s = .next t) :
    (t.err ≠ .none → i.op = .dec) ∧ (t.err = .paddingError → i.record.padPolicy ≠ .forbidden) := by
  obtain ⟨-, u, -, rfl | ⟨e, hop, -, he, -, rfl⟩⟩ := exec_next h
  · rw [u.finish_ended.1]
    exact ⟨fun hne => absurd rfl hne, nofun⟩
  · rw [(u.raise_ended e _).1]
    refine ⟨fun _ => hop, fun hpad hforb => ?_⟩
    rcases he with rfl | rfl
    · cases hpad
    · exact checkCounts_ne_paddingError hforb _ _ _ hpad

/-! The invariant, by the ways a step can end. -/

/-- With no call running, the clauses on a running call hold of themselves. -/
theorem inv_of_idle {s : State} (hb : s.busy = false) (hphase : s.phase = .idle)
    (hdone : s.done = false → s.err = .none) (herr : s.errLegal) (hw : s.widthsLegal) (hm : s.mem.wf) :
    s.Inv :=
  ⟨⟨by simp [hb], by simp [hb, hphase], hdone⟩, by simp [State.startLegal, hb], herr, hw, hm⟩

@[simp] theorem State.resetRegisters_busy (s : State) : s.resetRegisters.busy = false :=
  (by decide : (0#4).getLsbD 0 = false)

@[simp] theorem State.resetRegisters_err (s : State) : s.resetRegisters.err = .none :=
  (by decide : errField 0 = .none)

/-- The reset event gives a state meeting the invariant, whatever the registers held (10_state.md R40). -/
theorem resetRegisters_inv {s : State} (hm : s.mem.wf) : s.resetRegisters.Inv := by
  have h0 : 0 < 2 ^ Config.lenW := Nat.two_pow_pos _
  exact inv_of_idle s.resetRegisters_busy rfl (by simp) (by simp [State.errLegal]) ⟨h0, h0, h0, h0, h0⟩ hm

/-- Reset during a call is the reset event on a scrambled write frame (70_reset_and_hazards.md R281). -/
theorem abandonCall_inv {s : State} (hm : s.mem.wf) : s.abandonCall.Inv :=
  resetRegisters_inv (s := { s.scrambleFrame _ with draws := s.draws + 1 }) (State.scrambleFrame_wf _ hm)

theorem firstPhase_ne_idle (op : Op) : firstPhase op ≠ .idle := by cases op <;> decide

/-- A call whose premises hold starts in a state meeting the invariant (70_reset_and_hazards.md R284). -/
theorem startCall_inv {s : State} {w : BitVec 5} (hlen : s.len < 2 ^ Config.lenW) (hm : s.mem.wf)
    (hr : s.callRefusal (decodeCmd w).op (decodeCmd w).record = none) : (s.startCall w).Inv := by
  have h0 : 0 < 2 ^ Config.lenW := Nat.two_pow_pos _
  have hb : (s.startCall w).busy = true := busy_of_statusBusy rfl
  have hd : (s.startCall w).done = false := done_of_statusBusy rfl
  have he : (s.startCall w).err = .none := err_of_statusBusy rfl
  have hphase : (s.startCall w).phase ≠ .idle := firstPhase_ne_idle _
  exact ⟨⟨by simp [hd], ⟨fun hp => absurd hp hphase, by simp [hb]⟩, fun _ => he⟩, fun _ => ⟨rfl, rfl, hr⟩,
    by simp [State.errLegal, he], ⟨hlen, h0, h0, h0, h0⟩, hm⟩

/-- The command in CMD, run to its end, gives a state meeting the invariant. -/
theorem exec_inv {s t : State} (hlen : s.len < 2 ^ Config.lenW) (hm : s.mem.wf)
    (h : exec (decodeCmd s.cmd) s = .next t) : t.Inv := by
  obtain ⟨-, hdone, hb, hphase⟩ := exec_ended h
  obtain ⟨hcmd, -⟩ := exec_cmd_len h
  exact inv_of_idle hb hphase (by simp [hdone]) (by rw [State.errLegal, hcmd]; exact exec_err h)
    (exec_widthsLegal h hlen) (exec_wf h hm)

/-- A host action on an idle machine keeps the invariant. -/
theorem hostIdle_inv {a : HostAction} {s t : State} (hb : s.busy = false) (hs : s.Inv)
    (h : hostIdle a s = .next t) : t.Inv := by
  obtain ⟨⟨-, hphase, hdone⟩, -, herr, hw, hm⟩ := hs
  obtain ⟨w, -, hr, rfl⟩ | ⟨-, rfl⟩ | ⟨ht, hlen, hmem⟩ := hostIdle_next h
  · exact startCall_inv hw.1 hm hr
  · exact resetRegisters_inv hm
  · have htlen : t.len < 2 ^ Config.lenW := by
      rcases hlen with hlen | ⟨n, hlen⟩ <;> rw [hlen]
      · exact hw.1
      · exact lenOf_lt n
    have htmem : t.mem.wf := by
      rcases hmem with hmem | ⟨k, v, hmem⟩ <;> rw [hmem]
      · exact hm
      · exact Memory.write_wf k v hm
    rw [ht]
    exact inv_of_idle hb (hphase.2 hb) hdone herr ⟨htlen, hw.2⟩ htmem

/-- A host action on a busy machine keeps the invariant: no register of the running call moves. -/
theorem hostBusy_inv {a : HostAction} {s t : State} (hs : s.Inv) (h : hostBusy a s = .next t) : t.Inv := by
  obtain ⟨hstatus, hstart, herr, hw, hm⟩ := hs
  obtain ⟨-, rfl⟩ | ht := hostBusy_next h
  · exact abandonCall_inv hm
  · rw [ht]
    refine ⟨hstatus, fun hb => ?_, herr, hw, hm⟩
    obtain ⟨hvalues, hphase, hr⟩ := hstart hb
    exact ⟨congrArg (fun u : State =>
      { u with pending := t.pending, readings := t.readings, draws := t.draws }) hvalues, hphase, hr⟩

/-- Taking a host action off the list keeps the invariant: it speaks of no host field. -/
theorem dropPending_inv {s : State} (hs : s.Inv) : s.dropPending.Inv := by
  obtain ⟨hstatus, hstart, herr, hw, hm⟩ := hs
  refine ⟨hstatus, fun hb => ?_, herr, hw, hm⟩
  obtain ⟨hvalues, hphase, hr⟩ := hstart hb
  exact ⟨congrArg State.dropPending hvalues, hphase, hr⟩

/-- Settles O43, by the four kinds of step: the engine's, the idle host's with nothing to do, and a host action
on an idle or a busy machine. -/
theorem everyStepKeepsTheInvariant : Obligations.EveryStepKeepsTheInvariant := by
  intro s t hs h
  have ⟨_, _, _, hw, hm⟩ := hs
  obtain ⟨-, -, he⟩ | ⟨-, -, he⟩ | ⟨a, rest, hb, -, he⟩ | ⟨a, rest, -, -, -, he⟩ := step_cases h
  · exact exec_inv hw.1 hm he
  · cases he
    exact hs
  · exact hostIdle_inv (s := s.dropPending) hb (dropPending_inv hs) he
  · exact hostBusy_inv (dropPending_inv hs) he

/-- Settles O42: the reset state is the reset event on itself. -/
theorem invariantHoldsAtReset : Obligations.InvariantHoldsAtReset :=
  resetRegisters_inv State.reset_mem_wf

end Sys2Proof.Machine
end

section
/-! PROOFS. The other statements on the state: the start of a call, the registers at reset, host accesses while
idle, STATUS as a word, and the fields of GRP. -/

namespace Sys2Proof.Machine

/-- Settles O8: the other host actions leave STATUS as it is or reset it. -/
theorem onlyACmdWriteStartsACall : Obligations.OnlyACmdWriteStartsACall := by
  intro s t hb h htb
  obtain ⟨hbusy, -, -⟩ | ⟨-, -, he⟩ | ⟨a, rest, -, hp, he⟩ | ⟨_, _, hbusy, -⟩ := step_cases h
  · simp [hb] at hbusy
  · cases he
    simp [hb] at htb
  · obtain ⟨w, rfl, -, rfl⟩ | ⟨-, rfl⟩ | ⟨ht, -⟩ := hostIdle_next he
    · exact ⟨w, rest, hp, rfl⟩
    · simp at htb
    · have hsame : t.busy = s.busy := by rw [ht]; rfl
      simp [hsame, hb] at htb
  · simp [hb] at hbusy

/-! GRP as a number (10_state.md R27, 30_encoding.md R102). -/

theorem topAligned_concat (B : List Byte) (b : Byte) :
    topAligned (B ++ [b]) = topAligned B ||| (b.setWidth 40).shiftLeft (32 - 8 * B.length) := by
  simp [topAligned, List.zipIdx_append]

theorem bigEndian_concat (base : Nat) (ds : List Nat) (d : Nat) :
    bigEndian base (ds ++ [d]) = base * bigEndian base ds + d := by
  simp [bigEndian]

/-- A byte above `k` bytes lies below the bytes before it. -/
theorem byte_shiftLeft_lt (b : Byte) (k : Nat) : 2 ^ (8 * k) * b.toNat < 2 ^ (8 * (k + 1)) := by
  rw [Nat.mul_add, Nat.pow_add]
  exact Nat.mul_lt_mul_of_pos_left b.isLt (Nat.two_pow_pos _)

/-- No bit is lost when a byte is moved up to one of the five bytes of GRP. -/
theorem byte_shiftLeft_toNat (b : Byte) {k : Nat} (hk : k < 5) :
    ((b.setWidth 40).shiftLeft (8 * k)).toNat = 2 ^ (8 * k) * b.toNat := by
  have hfits : 2 ^ (8 * (k + 1)) ≤ 2 ^ 40 := Nat.pow_le_pow_right (by decide) (by omega)
  rw [BitVec.shiftLeft_eq, BitVec.toNat_shiftLeft, BitVec.toNat_setWidth_of_le (by decide), Nat.shiftLeft_eq,
    Nat.mul_comm]
  exact Nat.mod_eq_of_lt (Nat.lt_of_lt_of_le (byte_shiftLeft_lt b k) hfits)

/-- GRP holds the number of its bytes, followed by zero bytes. By induction on the bytes from the last one: each
byte enters below those before it. -/
theorem topAligned_toNat (B : List Byte) (h : B.length ≤ 5) :
    (topAligned B).toNat = 2 ^ (8 * (5 - B.length)) * bigEndian 256 (B.map BitVec.toNat) := by
  obtain ⟨L, rfl⟩ : ∃ L : List Byte, B = L.reverse := ⟨B.reverse, B.reverse_reverse.symm⟩
  induction L with
  | nil => rfl
  | cons b L ih =>
    rw [List.reverse_cons] at h ⊢
    generalize L.reverse = B at ih h ⊢
    rw [List.length_append, List.length_singleton] at h
    obtain ⟨k, hk⟩ : ∃ k, 5 - B.length = k + 1 := ⟨4 - B.length, by omega⟩
    rw [topAligned_concat, BitVec.toNat_or, ih (by omega), hk, show 32 - 8 * B.length = 8 * k by omega,
      byte_shiftLeft_toNat b (by omega), ← Nat.two_pow_add_eq_or_of_lt (byte_shiftLeft_lt b k),
      List.length_append, List.length_singleton, show 5 - (B.length + 1) = k by omega, List.map_append,
      List.map_singleton, bigEndian_concat, Nat.mul_add, Nat.mul_add, Nat.pow_add, Nat.mul_assoc]

/-- A group of at most 5 bytes in GRP is its group number at the top of GRP. -/
theorem topAligned_toNat_eq_groupNumber (v : Variant) {B : List Byte} (hB : B.length ≤ (rom v).blockBytes) :
    (topAligned B).toNat = groupNumber (rom v) B * 2 ^ (40 - 8 * (rom v).blockBytes) := by
  have hbbc : (rom v).blockBytes ≤ 5 := by cases v <;> decide
  rw [topAligned_toNat B (by omega), groupNumber, show 256 = 2 ^ 8 from rfl, ← Nat.pow_mul,
    Nat.mul_assoc, ← Nat.pow_add, Nat.mul_comm]
  congr 2
  omega

/-- A group has at most `bsc` data symbols, so all its fields lie in the block (30_encoding.md R102). -/
theorem dataSymbols_mul_le (v : Variant) :
    ∀ r ≤ (rom v).blockBytes, dataSymbols (rom v) r * (rom v).bitsPerSymbol ≤ 8 * (rom v).blockBytes := by
  cases v <;> decide

/-- Settles O23: GRP is the group number shifted to the top, so a field of GRP is the field of the number. -/
theorem groupRegisterFieldsArePack : Obligations.GroupRegisterFieldsArePack := by
  intro v B hB
  have hbbc : (rom v).blockBytes ≤ 5 := by cases v <;> decide
  refine List.map_congr_left fun k hk => ?_
  have hfield : (k + 1) * (rom v).bitsPerSymbol ≤ 8 * (rom v).blockBytes :=
    Nat.le_trans (Nat.mul_le_mul_right _ (List.mem_range.1 hk)) (dataSymbols_mul_le v _ hB)
  have hshift : 40 - (k + 1) * (rom v).bitsPerSymbol =
      8 * (rom v).blockBytes - (k + 1) * (rom v).bitsPerSymbol + (40 - 8 * (rom v).blockBytes) := by omega
  rw [groupField, BitVec.extractLsb'_toNat, Nat.shiftRight_eq_div_pow, topAligned_toNat_eq_groupNumber v hB, hshift,
    Nat.pow_add, Nat.mul_div_mul_right _ _ (Nat.two_pow_pos _)]

/-- Settles O10: nothing is listed in memory, so every unit reads as the free value of its place. -/
theorem resetValuesOfTheRegisters : Obligations.ResetValuesOfTheRegisters :=
  ⟨rfl, rfl, rfl, rfl, rfl, rfl, rfl, rfl, rfl, rfl, rfl, rfl, rfl, rfl, by decide, by decide, by decide,
    fun _ => rfl, fun _ => rfl⟩

/-! Host accesses while idle. -/

/-- The host's next action on an idle machine. -/
theorem step_idle_action {s : State} {a : HostAction} {rest : List HostAction} (hb : s.busy = false)
    (hp : s.pending = a :: rest) : step s = hostIdle a s.dropPending :=
  (step_of_idle hb).trans (hostStep_idle hb hp)

/-- Taking the next action off a list changes the list alone. -/
theorem State.dropPending_eq {s : State} {a : HostAction} {rest : List HostAction} (hp : s.pending = a :: rest) :
    s.dropPending = { s with pending := rest } := by
  simp [State.dropPending, hp]

/-- Writing one unit of memory changes that unit, and nothing else. -/
theorem State.store_unit (s : State) (k : Nat) (v : Byte) :
    s.store k v = { s with mem := (s.store k v).mem } ∧ (s.store k v).unitAt k = v ∧
      ∀ a, a ≠ k → (s.store k v).mem.read a = s.mem.read a :=
  ⟨rfl, by simp [State.unitAt_store], fun _ ha => Memory.read_write_other _ _ ha⟩

/-- Settles O47, by the arm of each write. -/
theorem hostWritesWhileIdle : Obligations.HostWritesWhileIdle := by
  intro s rest hb
  refine ⟨fun n hp => ?_, fun i v hp => ?_, fun j v hp => ?_⟩ <;>
    rw [step_idle_action hb hp, State.dropPending_eq hp]
  · rw [← lenOf_eq]
    rfl
  · exact ⟨_, rfl, State.store_unit { s with pending := rest } (s.inAt + i) v⟩
  · exact ⟨_, rfl, State.store_unit { s with pending := rest } (s.outAt + j) v⟩

/-- Settles O48, by the arm of each read. -/
theorem hostReadsOfUnitsWhileIdle : Obligations.HostReadsOfUnitsWhileIdle := by
  intro s rest hb
  refine ⟨fun i hp => ?_, fun j hp => ?_⟩ <;>
    rw [step_idle_action hb hp, State.dropPending_eq hp] <;> rfl

/-! STATUS as a word. -/

/-- A CMD write on an idle machine that answers a next state has started the call. -/
theorem step_writeCmd_next {s t : State} {w : BitVec 5} {rest : List HostAction} (hb : s.busy = false)
    (hp : s.pending = .writeCmd w :: rest) (h : step s = .next t) : t = s.dropPending.startCall w := by
  rw [step_idle_action hb hp] at h
  simp only [hostIdle] at h
  split at h <;> cases h
  rfl

/-- Settles O52: STATUS is its three fields side by side, and each outcome fixes the fields. -/
theorem statusWordOfEachOutcome : Obligations.StatusWordOfEachOutcome := by
  refine ⟨fun s => ?_, rfl, fun s t w rest hb hp h => ?_, fun i s t h => ?_, fun s rest hb hp => ?_⟩
  · rw [show s.status.toNat = (statusWord s.err s.done s.busy).toNat from
      congrArg BitVec.toNat (status_eq_fields s)]
    cases s.err <;> cases s.done <;> cases s.busy <;> rfl
  · rw [step_writeCmd_next hb hp h]
    rfl
  · rw [exec_status h]
    cases t.err <;> rfl
  · exact ⟨_, step_idle_action hb hp, rfl⟩

end Sys2Proof.Machine
end

section
/-! PROOFS. The buffers (20_memory.md): which units of memory a command may change, when a call is refused, and
reads of the registers. -/

namespace Sys2Proof.Machine

/-! Appending, as a relation: what the engine does to OUT between two of its states. -/

/-- From `s` to `t` nothing was written but `OUT[s.rlen .. t.rlen-1]` (00_scope.md R9, 20_memory.md R67). -/
def AppendsOnly (s t : State) : Prop :=
  t.outAt = s.outAt ∧ s.rlen ≤ t.rlen ∧
    ∀ a, a < s.outAt + s.rlen ∨ s.outAt + t.rlen ≤ a → t.mem.read a = s.mem.read a

theorem AppendsOnly.refl (s : State) : AppendsOnly s s := ⟨rfl, Nat.le_refl _, fun _ _ => rfl⟩

theorem AppendsOnly.trans {s t u : State} (hst : AppendsOnly s t) (htu : AppendsOnly t u) : AppendsOnly s u := by
  obtain ⟨hst_out, hst_rlen, hst_read⟩ := hst
  obtain ⟨htu_out, htu_rlen, htu_read⟩ := htu
  refine ⟨htu_out.trans hst_out, Nat.le_trans hst_rlen htu_rlen, fun a ha => ?_⟩
  rw [htu_read a (by omega), hst_read a (by omega)]

theorem State.appendAll_appendsOnly (s : State) (vs : List Byte) : AppendsOnly s (s.appendAll vs) := by
  have hrlen := s.appendAll_rlen vs
  refine ⟨by rw [s.appendAll_eq], by omega, fun a ha => ?_⟩
  rw [s.appendAll_read, if_neg (by omega)]

theorem State.absorb_appendsOnly (D : Descriptor) (s : State) (v : Byte) : AppendsOnly s (s.absorb D v) := by
  simp only [State.absorb]
  split
  next b _ => exact s.appendAll_appendsOnly [b]
  next => exact .refl s

theorem emitUnit_appendsOnly (D : Descriptor) (s : State) : AppendsOnly s (emitUnit D s) := by
  unfold emitUnit
  split
  next v _ => exact s.absorb_appendsOnly D v
  next => exact .refl s

/-- The decoder's emission only appends (43_decode.md R222). -/
theorem emitUnits_appendsOnly (D : Descriptor) (n : Nat) (s : State) : AppendsOnly s (emitUnits D n s) := by
  induction n generalizing s with
  | zero => exact .refl s
  | succ n ih =>
    simp only [emitUnits]
    split
    · exact (emitUnit_appendsOnly D s).trans (ih _)
    · exact .refl s

/-- The encoder's loop only appends (42_encode.md R197). -/
theorem encodeGroups_appendsOnly (D : Descriptor) (n : Nat) (s : State) : AppendsOnly s (encodeGroups D n s) := by
  induction n generalizing s with
  | zero => exact .refl s
  | succ n ih =>
    simp only [encodeGroups]
    split
    · exact ((loadGroup D s).appendAll_appendsOnly _).trans (ih _)
    · exact .refl s

/-- A loop that starts with nothing appended changes no unit outside `OUT[0 .. RLEN-1]`. -/
theorem AppendsOnly.read_outside {s t : State} (h : AppendsOnly s t) (h0 : s.rlen = 0) {a : Nat}
    (ha : a < s.outAt ∨ s.outAt + t.rlen ≤ a) : t.mem.read a = s.mem.read a := by
  obtain ⟨-, -, hread⟩ := h
  exact hread a (by omega)

/-- A `raise` changes no unit outside the write frame (43_decode.md R226). -/
theorem State.raise_read_outside (s : State) (e : Err) {frame a : Nat}
    (ha : a < s.outAt ∨ s.outAt + frame ≤ a) : (s.raise e frame).mem.read a = s.mem.read a := by
  rw [s.raise_read, if_neg (by omega)]

/-- The scan writes nothing and leaves OUT where it is (43_decode.md R214). -/
theorem scanUnits_mem_outAt {D : Descriptor} {n : Nat} {s t : State} (h : scanUnits D n s = some t) :
    t.mem = s.mem ∧ t.outAt = s.outAt := by
  rw [scanUnits_eq h]
  exact ⟨rfl, rfl⟩

/-- The whole of `ENC` appends exactly `encoded_size(LEN)` units (42_encode.md R190, 41_size.md R174). -/
theorem encodeGroups_startPhase_rlen (v : Variant) (s : State) :
    (encodeGroups (rom v) s.operand (s.startPhase .emit)).rlen = encodedSize (rom v) s.operand :=
  (encodeGroups_rlen v s.operand (s.startPhase .emit) (Nat.le_refl _)).trans (Nat.zero_add _)

/-- Settles O20: ESZ and DMS leave the memory, the loops of ENC and DEC only append from RLEN = 0 on, and a `raise`
scrambles the write frame alone. -/
theorem sinkWriteFrame : Obligations.SinkWriteFrame := by
  intro i s t h a ha
  rw [exec_eq_callOf] at h
  cases hop : i.op <;> rw [hop] at h ha
  case esz =>
    obtain ⟨-, rfl⟩ := eszCall_next h
    rfl
  case dms =>
    cases h
    rfl
  case enc =>
    obtain ⟨-, rfl⟩ := encCall_next h
    refine (encodeGroups_appendsOnly i.record s.operand (s.startPhase .emit)).read_outside rfl ?_
    exact (encodeGroups_startPhase_rlen i.variant s).symm ▸ ha
  case dec =>
    have raised : ∀ (u : State) (e : Err), u.mem = s.mem ∧ u.outAt = s.outAt → e ≠ .none →
        t = u.raise e (decodedMaxSize i.record s.operand) → t.mem.read a = s.mem.read a := by
      rintro u e ⟨hmem, hout⟩ hne rfl
      obtain ⟨herr, -⟩ := u.raise_ended e (decodedMaxSize i.record s.operand)
      simp only [herr, if_neg hne, ← hout] at ha
      rw [u.raise_read_outside e ha, hmem]
    obtain ⟨-, ⟨-, ht⟩ | ⟨u, hu, hend⟩⟩ := decCall_next h
    · exact raised s _ ⟨rfl, rfl⟩ (by decide) ht
    · have ⟨(hmem : u.mem = s.mem), (hout : u.outAt = s.outAt)⟩ := scanUnits_mem_outAt hu
      obtain ⟨hne, ht⟩ | ⟨-, rfl⟩ := hend
      · exact raised u _ ⟨hmem, hout⟩ hne ht
      · have happ := emitUnits_appendsOnly i.record s.operand u.beginEmit
        obtain ⟨herr, -⟩ := (emitUnits i.record s.operand u.beginEmit).finish_ended
        simp only [herr, if_true, ← hout] at ha
        exact (happ.read_outside rfl ha).trans (congrArg (Memory.read · a) hmem)

/-! Refusals. -/

/-- Some premise of a command is broken exactly when its call has a reason for refusal (R294). -/
theorem not_premises_iff {i : Instr} {s : State} :
    ¬ s.premises i ↔ ∃ r, s.callRefusal i.op i.record = some r := by
  rw [← premises_iff, ← ne_eq, Option.ne_none_iff_exists']

theorem exec_refused_iff {i : Instr} {s : State} : (∃ r, exec i s = .refused r) ↔ ¬ s.premises i := by
  simp only [exec_eq_callOf, callOf_refused, not_premises_iff]

/-- A CMD write on an idle machine is refused for the reason the call would be (70_reset_and_hazards.md R284). -/
theorem hostIdle_writeCmd_refused {w : BitVec 5} {s : State} {r : Refusal} :
    hostIdle (.writeCmd w) s = .refused r ↔ s.callRefusal (decodeCmd w).op (decodeCmd w).record = some r := by
  refine ⟨fun h => ?_, fun h => ?_⟩
  · obtain ⟨w', hw, hr⟩ := hostIdle_refused h
    cases hw
    exact hr
  · simp only [hostIdle]
    rw [show rom (decodeCmd w).variant = (decodeCmd w).record from rfl, h]

/-- Settles O18: both checks refuse exactly when the premises fail, and the type of faults is empty. -/
theorem callsAreRefusedExactlyForABrokenPremise : Obligations.CallsAreRefusedExactlyForABrokenPremise := by
  refine ⟨fun i s => ⟨?_, nofun⟩, fun s w rest hb hp => ?_⟩
  · rw [exec_refused_iff]
    unfold State.premises
    cases i.op
    case esz => exact Nat.not_lt
    case dms => exact not_true
    case enc => simp only [State.encPremises, Classical.not_and_iff_not_or_not, Nat.not_lt,
        Nat.not_le, Classical.not_not]
    case dec => simp only [State.decPremises, Classical.not_and_iff_not_or_not, Nat.not_le, Classical.not_not]
  · simp only [step_idle_action hb hp, hostIdle_writeCmd_refused]
    exact (not_premises_iff (s := s.dropPending)).symm

/-! Reads of the registers. -/

/-- With an action to come, the step takes it off the list on an idle or a busy machine, or a running call ends
first (log 14). -/
theorem step_action_cases {s : State} {a : HostAction} {rest : List HostAction} (hp : s.pending = a :: rest) :
    (s.busy = false ∧ step s = hostIdle a { s with pending := rest }) ∨
    (s.busy = true ∧ step s = hostBusy a { s with pending := rest }) ∨
    (s.busy = true ∧ step s = exec (decodeCmd s.cmd) s) := by
  rw [← State.dropPending_eq hp]
  cases hb : s.busy with
  | false => exact .inl ⟨rfl, step_idle_action hb hp⟩
  | true =>
    cases ht : s.engineTurn with
    | true => exact .inr (.inr ⟨rfl, step_of_engineTurn hb ht⟩)
    | false => exact .inr (.inl ⟨rfl, (step_of_hostTurn ht).trans (hostStep_busy hb hp)⟩)

/-- Idle and busy, a read of STATUS, CMD or LEN records the register and does nothing else (R290). -/
theorem registerRead_note {s : State} {a : HostAction} {r : Reading}
    (h : (a = .readStatus ∧ r = .status s.status) ∨ (a = .readCmd ∧ r = .cmd s.cmd) ∨
      (a = .readLen ∧ r = .len s.len)) :
    hostIdle a s = .next (s.note r) ∧ hostBusy a s = .next (s.note r) := by
  obtain ⟨rfl, rfl⟩ | ⟨rfl, rfl⟩ | ⟨rfl, rfl⟩ := h <;> exact ⟨rfl, rfl⟩

/-- Settles O46, by whose move the step is: the idle host's, the busy host's or the engine's. -/
theorem registerReadsHaveNoSideEffect : Obligations.RegisterReadsHaveNoSideEffect := by
  refine fun s rest => ⟨fun a r har hp => ?_, fun hp hb => ?_, fun hp hb => ?_⟩
  · obtain ⟨hidle, hbusy⟩ := registerRead_note (s := { s with pending := rest }) har
    obtain ⟨-, h⟩ | ⟨-, h⟩ | h := step_action_cases hp
    · exact .inl (h.trans hidle)
    · exact .inl (h.trans hbusy)
    · exact .inr h
  · rw [step_idle_action hb hp, State.dropPending_eq hp]
    rfl
  · obtain ⟨hidle, -⟩ | ⟨-, h⟩ | ⟨-, h⟩ := step_action_cases hp
    · rw [hb] at hidle
      cases hidle
    · exact .inl ⟨_, (Config.freeRlen s.draws).isLt, h⟩
    · exact .inr h

end Sys2Proof.Machine
end

section
/-! PROOFS. The command words (30_encoding.md R90 to R93). -/

namespace Sys2Proof

/-- Decoding the word of a command gives the command: the table of R93 against the fields of R91 and R92. -/
@[simp] theorem decodeCmd_encodeCmd (i : Instr) : decodeCmd (encodeCmd i) = i := by cases i <;> rfl

/-- No bit of a word is dropped: encoding what a word decodes to gives the word. -/
@[simp] theorem encodeCmd_decodeCmd : ∀ w : BitVec 5, encodeCmd (decodeCmd w) = w := by decide

theorem decode_cons_of_lt {b : Byte} (h : b.toNat < 32) (rest : List Byte) :
    decode (b :: rest) = .ok (decodeCmd (b.setWidth 5), rest) := if_pos h

theorem decode_cons_of_ge {b : Byte} (h : 32 ≤ b.toNat) (rest : List Byte) :
    decode (b :: rest) = .error .widerThanFiveBits := if_neg (Nat.not_lt.2 h)

/-- The decoder takes back the byte of a command and leaves what follows it: the byte is below 32, and its low five
bits are the word. -/
theorem decode_encode_append (i : Instr) (rest : List Byte) : decode (encode i ++ rest) = .ok (i, rest) := by
  have hlt : ((encodeCmd i).setWidth 8).toNat < 32 := by
    rw [BitVec.toNat_setWidth_of_le (by decide)]
    exact (encodeCmd i).isLt
  have hlow : ((encodeCmd i).setWidth 8).setWidth 5 = encodeCmd i :=
    BitVec.setWidth_setWidth_of_le _ (by decide)
  rw [encode, List.singleton_append, decode_cons_of_lt hlt, hlow, decodeCmd_encodeCmd]

/-- Settles O1, by running the decoder on the 32 words and the encoder on each of the 32 commands. -/
theorem commandWordsAreTheTableOfR93 : Obligations.CommandWordsAreTheTableOfR93 :=
  ⟨by decide, fun i => by cases i <;> rfl⟩

/-- Settles O2: the round trips in both directions. -/
theorem decodeOfEncodeIsTheCommand : Obligations.DecodeOfEncodeIsTheCommand :=
  ⟨decode_encode_append, encodeCmd_decodeCmd⟩

/-- Settles O4, by the two arms of the decoder on a byte. -/
theorem decoderRejectsWhatIsNoCommandWord : Obligations.DecoderRejectsWhatIsNoCommandWord :=
  ⟨rfl, fun _ rest => ⟨fun h => decode_cons_of_ge h rest, fun h => decode_cons_of_lt h rest⟩⟩

end Sys2Proof
end

section
/-! PROOFS. The descriptor records (30_encoding.md R96 to R101): what the check `Descriptor.wf` says of any record,
and that the eight records of the ROM pass it. -/

namespace Sys2Proof.Machine

/-- In a well-formed record `bps` fixes the block (R97, 40_descriptors.md R136). -/
theorem Descriptor.block_of_wf {D : Descriptor} (h : D.wf = true) :
    (D.bitsPerSymbol = 4 ∨ D.bitsPerSymbol = 5 ∨ D.bitsPerSymbol = 6) ∧
    D.blockBytes = D.bitsPerSymbol / Nat.gcd D.bitsPerSymbol 8 ∧
    D.blockSymbols = 8 / Nat.gcd D.bitsPerSymbol 8 := by
  simp only [Descriptor.wf, Descriptor.bpsLegal, Descriptor.blockLegal, Bool.and_eq_true, Bool.or_eq_true,
    beq_iff_eq, or_assoc] at h
  obtain ⟨⟨⟨⟨⟨⟨hbps, ⟨-, hbbc⟩, hbsc⟩, -⟩, -⟩, -⟩, -⟩, -⟩ := h
  exact ⟨hbps, hbbc, hbsc⟩

/-- `has_pad = 0` exactly when the policy is `forbidden` (R101 (a)). -/
theorem Descriptor.hasPad_iff_of_wf {D : Descriptor} (h : D.wf = true) :
    D.hasPad = false ↔ D.padPolicy = .forbidden := by
  simp only [Descriptor.wf, Descriptor.padLegal, Bool.and_eq_true] at h
  obtain ⟨⟨⟨⟨⟨-, -, hpad⟩, -⟩, -⟩, -⟩, -⟩ := h
  cases hp : D.hasPad <;> simpa [hp] using hpad

/-- Inside a list, reading with a default reads the entry. -/
theorem getElem?_eq_some_getD {α : Type} {l : List α} {k : Nat} (h : k < l.length) (d : α) :
    l[k]? = some (l.getD k d) := by
  rw [List.getD_eq_getElem?_getD, List.getElem?_eq_getElem h, Option.getD_some]

/-- The entries of the tables at a character, in the list that `Descriptor.classesDisjoint` goes through. -/
theorem Descriptor.mem_zipIdx_tables {D : Descriptor} (hdec : D.dec.length = 256) (hign : D.ign.length = 256)
    (c : Byte) : ((D.decAt c, D.ignAt c), c.toNat) ∈ (D.dec.zip D.ign).zipIdx := by
  have hcd : c.toNat < D.dec.length := hdec ▸ c.isLt
  have hci : c.toNat < D.ign.length := hign ▸ c.isLt
  rw [List.mem_zipIdx_iff_getElem?, List.getElem?_zip_eq_some]
  exact ⟨getElem?_eq_some_getD hcd invalidEntry, getElem?_eq_some_getD hci false⟩

/-- No character is in two of the classes *ignored*, *pad* and *data* (R101 (b)). -/
theorem Descriptor.disjoint_of_wf {D : Descriptor} (h : D.wf = true) (c : Byte) :
    ¬ (D.ignAt c = true ∧ D.hasPad = true ∧ c = D.padSymbol) ∧
    ¬ (D.ignAt c = true ∧ D.decAt c ≠ invalidEntry) ∧
    ¬ (D.hasPad = true ∧ c = D.padSymbol ∧ D.decAt c ≠ invalidEntry) := by
  simp only [Descriptor.wf, Descriptor.sizesLegal, Bool.and_eq_true, beq_iff_eq] at h
  obtain ⟨⟨⟨⟨-, ⟨-, hdec⟩, hign⟩, -⟩, hdisj⟩, -⟩ := h
  have hc := List.all_eq_true.1 hdisj _ (Descriptor.mem_zipIdx_tables hdec hign c)
  simp only [BitVec.ofNat_toNat, BitVec.setWidth_eq] at hc
  refine ⟨?_, ?_, ?_⟩
  · rintro ⟨hig, hpad, hsym⟩
    simp [hig, hpad, ← hsym] at hc
  · rintro ⟨hig, hdata⟩
    simp [hig, hdata] at hc
  · rintro ⟨hpad, hsym, hdata⟩
    simp [hpad, ← hsym, hdata] at hc

/-- `dec[enc[k]] = k` for every symbol value (R101 (c)). -/
theorem Descriptor.decAt_encAt_of_wf {D : Descriptor} (h : D.wf = true) {k : Nat} (hk : k < 2 ^ D.bitsPerSymbol) :
    (D.decAt (D.encAt k)).toNat = k := by
  obtain ⟨hbps, -⟩ := Descriptor.block_of_wf h
  have hbyte : 2 ^ D.bitsPerSymbol ≤ 2 ^ 8 := Nat.pow_le_pow_right (by decide) (by omega)
  simp only [Descriptor.wf, Bool.and_eq_true] at h
  obtain ⟨-, htables⟩ := h
  have hentry := List.all_eq_true.1 htables k (List.mem_range.2 hk)
  simp only [Bool.and_eq_true, beq_iff_eq] at hentry
  obtain ⟨hdec, -⟩ := hentry
  rw [hdec, BitVec.toNat_ofNat, Nat.mod_eq_of_lt (by omega)]

/-- The eight records are well-formed (40_descriptors.md R140 to R147). -/
theorem rom_wf (v : Variant) : (rom v).wf = true := by cases v <;> decide +kernel

/-- The block of a record by its `bps` (R97). -/
theorem rom_block_of_bps {v : Variant} {bps : Nat} (h : (rom v).bitsPerSymbol = bps) :
    (rom v).blockBytes = bps / Nat.gcd bps 8 ∧ (rom v).blockSymbols = 8 / Nat.gcd bps 8 := by
  obtain ⟨-, hblock⟩ := Descriptor.block_of_wf (rom_wf v)
  rwa [h] at hblock

/-- Settles O39, clause by clause from the check that the records pass. -/
theorem recordsAreWellFormed : Obligations.RecordsAreWellFormed := by
  intro v
  have hwf := rom_wf v
  obtain ⟨hbps, -⟩ := Descriptor.block_of_wf hwf
  obtain ⟨-, -, -, -, hbits⟩ := rom_block v
  exact ⟨hbps.imp (fun h => ⟨h, rom_block_of_bps h⟩)
      (Or.imp (fun h => ⟨h, rom_block_of_bps h⟩) (fun h => ⟨h, rom_block_of_bps h⟩)),
    hbits, Descriptor.hasPad_iff_of_wf hwf, Descriptor.disjoint_of_wf hwf,
    fun _ => Descriptor.decAt_encAt_of_wf hwf⟩

end Sys2Proof.Machine
end

section
/-! PROOFS. The bits of a full block (30_encoding.md R102 to R106): the block is one word, of which `pack` takes the
fields of `bps` bits and `unpack` the bytes, the highest first. -/

namespace Sys2Proof.Machine

/-- Two words side by side, as a number. -/
theorem toNat_append_eq {m n : Nat} (x : BitVec m) (y : BitVec n) :
    (x ++ y).toNat = 2 ^ n * x.toNat + y.toNat := by
  rw [BitVec.toNat_append, Nat.shiftLeft_eq, Nat.mul_comm, Nat.two_pow_add_eq_or_of_lt y.isLt]

section
variable {D : Descriptor} {bps bbc bsc w : Nat}

/-- The symbols of a full block are the fields of the word its bytes make (R102). -/
theorem pack_fullBlock (hbps : D.bitsPerSymbol = bps) (hbbc : D.blockBytes = bbc)
    (hbsc : ceilDiv (8 * bbc) bps = bsc) {B : List Byte} (hB : B.length = bbc) (X : BitVec w)
    (hX : X.toNat = bigEndian 256 (B.map BitVec.toNat)) :
    pack D B = (List.range bsc).map fun k => (X.extractLsb' (8 * bbc - (k + 1) * bps) bps).toNat := by
  simp only [pack, dataSymbols, groupNumber, hbps, hbbc, hB, hbsc, ← hX, Nat.sub_self, Nat.pow_zero, Nat.mul_one,
    BitVec.extractLsb'_toNat, Nat.shiftRight_eq_div_pow]

/-- The bytes of a full block are the bytes of the word its symbol values make (R106). -/
theorem unpack_fullBlock (hbps : D.bitsPerSymbol = bps) (hbbc : D.blockBytes = bbc) (hbsc : D.blockSymbols = bsc)
    {S : List Nat} (hS : S.length = bsc) (X : BitVec w) (hX : X.toNat = bigEndian (2 ^ bps) S) :
    unpack D S = (List.range bbc).map fun j => X.extractLsb' (8 * bbc - 8 * (j + 1)) 8 := by
  simp only [unpack, blockYield, blockNumber, hbps, hbbc, hbsc, hS, if_true, ← hX, Nat.sub_self, Nat.pow_zero,
    Nat.mul_one, BitVec.extractLsb', Nat.shiftRight_eq_div_pow]

end

/-- Settles O36: the word of a block is its bytes side by side, and each bit of a field of that word is the bit of
the byte it lies in. -/
theorem blockLayoutBytesToSymbols : Obligations.BlockLayoutBytesToSymbols := by
  refine ⟨fun v h B0 => ?bps4, fun v h B0 B1 B2 B3 B4 => ?bps5, fun v h B0 B1 B2 => ?bps6⟩ <;>
    obtain ⟨hbbc, -⟩ := rom_block_of_bps h
  case' bps4 =>
    rw [pack_fullBlock (bbc := 1) (bsc := 2) h hbbc rfl rfl B0 (Nat.zero_add _).symm]
  case' bps5 =>
    rw [pack_fullBlock (bbc := 5) (bsc := 8) h hbbc rfl rfl (B0 ++ B1 ++ B2 ++ B3 ++ B4)
      (by simp only [toNat_append_eq, bigEndian, List.map, List.foldl]; omega)]
  case' bps6 =>
    rw [pack_fullBlock (bbc := 3) (bsc := 4) h hbbc rfl rfl (B0 ++ B1 ++ B2)
      (by simp only [toNat_append_eq, bigEndian, List.map, List.foldl]; omega)]
  all_goals
    simp only [List.range, List.range.loop, List.map, List.cons.injEq, and_true]
    and_intros
  all_goals
    refine congrArg BitVec.toNat (BitVec.eq_of_getLsbD_eq fun i hi => ?_)
    simp only [BitVec.getLsbD_extractLsb', BitVec.getLsbD_append]
    grind

/-- Settles O37: the word of a block is its symbol values side by side, and each bit of a byte of that word is the
bit of the symbol value it lies in. -/
theorem blockLayoutSymbolsToBytes : Obligations.BlockLayoutSymbolsToBytes := by
  refine ⟨fun v h S0 S1 => ?bps4, fun v h S0 S1 S2 S3 S4 S5 S6 S7 => ?bps5, fun v h S0 S1 S2 S3 => ?bps6⟩ <;>
    obtain ⟨hbbc, hbsc⟩ := rom_block_of_bps h
  case' bps4 =>
    rw [unpack_fullBlock (bbc := 1) (bsc := 2) h hbbc hbsc rfl (S0 ++ S1)
      (by simp only [toNat_append_eq, bigEndian, List.foldl]; omega)]
  case' bps5 =>
    rw [unpack_fullBlock (bbc := 5) (bsc := 8) h hbbc hbsc rfl (S0 ++ S1 ++ S2 ++ S3 ++ S4 ++ S5 ++ S6 ++ S7)
      (by simp only [toNat_append_eq, bigEndian, List.foldl]; omega)]
  case' bps6 =>
    rw [unpack_fullBlock (bbc := 3) (bsc := 4) h hbbc hbsc rfl (S0 ++ S1 ++ S2 ++ S3)
      (by simp only [toNat_append_eq, bigEndian, List.foldl]; omega)]
  all_goals
    simp only [List.range, List.range.loop, List.map, List.cons.injEq, and_true]
    and_intros
  all_goals
    refine BitVec.eq_of_getLsbD_eq fun i hi => ?_
    simp only [BitVec.getLsbD_extractLsb', BitVec.getLsbD_append]
    grind

end Sys2Proof.Machine
end

section
/-! PROOFS. The host's branch at the end of `decode` (30_encoding.md R111). -/

namespace Sys2Proof.Machine

/-- The branch is the host's move, busy or idle: the engine moves only while the host waits or reads a register. -/
theorem step_returnUnits {s : State} {rest : List HostAction} (hp : s.pending = .returnUnits :: rest) :
    step s = .next { s with pending := rest }.returnUnits := by
  have hturn : s.engineTurn = false := by simp [State.engineTurn, State.hostOnlyWaits, State.hostReadsNext, hp]
  rw [step_of_hostTurn hturn, ← State.dropPending_eq hp]
  cases hb : s.busy with
  | false => exact hostStep_idle hb hp
  | true => exact hostStep_busy hb hp

/-- Of the codes of `err`, 0 alone is `none` (R95). -/
theorem errField_eq_none_iff : ∀ {v : BitVec 4}, errField v = .none ↔ v.extractLsb' 2 2 = 0#2 := by decide

/-- What the branch does on a STATUS and an RLEN just read: the units of OUT come next exactly on success. -/
theorem State.returnUnits_of_readings {s : State} {n : Nat} {v : BitVec 4} {before : List Reading}
    (h : s.readings = .rlen n :: .status v :: before) :
    s.returnUnits = if errField v = .none then { s with pending := readOutUnits n ++ s.pending } else s := by
  unfold State.returnUnits
  rw [h]

/-- Settles O49, by the two outcomes of the branch. -/
theorem decodeReturnsItsUnitsOnlyOnSuccess : Obligations.DecodeReturnsItsUnitsOnlyOnSuccess := by
  intro s rest v n before hp hread
  have hstep := step_returnUnits hp
  rw [State.returnUnits_of_readings (s := { s with pending := rest }) hread] at hstep
  rw [hstep]
  refine ⟨fun hnone => ?_, fun herr => ?_⟩
  · rw [if_pos (errField_eq_none_iff.2 hnone)]
    rfl
  · rw [if_neg (mt errField_eq_none_iff.1 herr)]

end Sys2Proof.Machine
end

section
/-! PROOFS. The tables of the records (40_descriptors.md R132 to R138, R149): the dumped reverse tables are what the
builder gives, and the builder gives a value to the case variants of the symbols alone. -/

namespace Sys2Proof.Machine

/-- A forward array begins with its string: the entries from there on are the free ones (30_encoding.md R98). -/
theorem take_encArray (chars : List Byte) : (encArray chars).take chars.length = chars :=
  List.take_left

theorem rom_enc (v : Variant) : (rom v).enc = encArray (symbolString v) := by cases v <;> rfl

theorem symbolString_length (v : Variant) : (symbolString v).length = 2 ^ (rom v).bitsPerSymbol := by
  cases v <;> rfl

/-- The dumps of R149, table by table, against the builder. -/
theorem rom_dec (v : Variant) : (rom v).dec = buildDec (symbolString v) (caseInsensitive v) := by
  cases v <;> decide +kernel

/-- Settles O40: the forward arrays by their first entries, the reverse tables by running the builder. -/
theorem reverseTablesAreWhatTheBuilderGives : Obligations.ReverseTablesAreWhatTheBuilderGives := by
  refine fun v => ⟨?_, rom_dec v⟩
  rw [rom_enc, ← symbolString_length, take_encArray]

/-- The characters that may stand for a symbol: itself and, in an insensitive record, its two cases (R133). -/
def caseVariants (c : Byte) : List Byte := [c, upperOf c, lowerOf c]

/-- Setting the entry of one character leaves the entry of another. -/
theorem getElem?_set_toNat_of_ne {α : Type} {c x : Byte} (h : c ≠ x) (l : List α) (a : α) :
    (l.set x.toNat a)[c.toNat]? = l[c.toNat]? :=
  List.getElem?_set_ne fun hx => h (BitVec.eq_of_toNat_eq hx.symm)

/-- One turn of the builder leaves the entry of a character that is no case of the symbol. -/
theorem buildEntry_getElem?_of_notMem {c x : Byte} (h : c ∉ caseVariants x) (insensitive : Bool)
    (dec : List Byte) (k : Nat) : (buildEntry insensitive dec x k)[c.toNat]? = dec[c.toNat]? := by
  simp only [caseVariants, List.mem_cons, List.not_mem_nil, or_false, not_or] at h
  obtain ⟨hself, hupper, hlower⟩ := h
  cases insensitive with
  | false => exact getElem?_set_toNat_of_ne hself _ _
  | true =>
    exact (getElem?_set_toNat_of_ne hlower _ _).trans
      ((getElem?_set_toNat_of_ne hupper _ _).trans (getElem?_set_toNat_of_ne hself _ _))

/-- So does the whole loop, for a character that is no case of any symbol. -/
theorem buildFrom_getElem?_of_notMem {c : Byte} {chars : List Byte} (h : ∀ x ∈ chars, c ∉ caseVariants x)
    (insensitive : Bool) (dec : List Byte) (k : Nat) :
    (buildFrom insensitive dec chars k)[c.toNat]? = dec[c.toNat]? := by
  induction chars generalizing dec k with
  | nil => rfl
  | cons x chars ih =>
    obtain ⟨hx, hchars⟩ := List.forall_mem_cons.1 h
    exact (ih hchars _ _).trans (buildEntry_getElem?_of_notMem hx _ _ _)

/-- Reading an entry of a list of defaults with that default. -/
theorem getElem?_replicate_getD {α : Type} (n k : Nat) (d : α) : (List.replicate n d)[k]?.getD d = d := by
  rw [List.getElem?_replicate]
  split
  case isTrue => rfl
  case isFalse => rfl

/-- "Nothing else is ever given a valid value" (R132): a character that is no case of a symbol has no table value. -/
theorem rom_decAt_of_notMem {v : Variant} {c : Byte} (h : ∀ x ∈ symbolString v, c ∉ caseVariants x) :
    (rom v).decAt c = invalidEntry := by
  rw [Descriptor.decAt, rom_dec, buildDec, List.getD_eq_getElem?_getD, buildFrom_getElem?_of_notMem h]
  exact getElem?_replicate_getD ..

/-- A graphic ASCII character: not a control, not the space. -/
def isGraphic (c : Byte) : Bool := decide (0x21 ≤ c.toNat) && decide (c.toNat < 0x7F)

theorem symbolString_graphic (v : Variant) : (symbolString v).all isGraphic = true := by
  cases v <;> decide

/-- Changing the case keeps a character graphic. -/
theorem isGraphic_of_mem_caseVariants {x c : Byte} (hx : isGraphic x = true) (hc : c ∈ caseVariants x) :
    isGraphic c = true := by
  simp only [caseVariants, List.mem_cons, List.not_mem_nil, or_false] at hc
  simp only [isGraphic, Bool.and_eq_true, decide_eq_true_eq] at hx ⊢
  obtain rfl | rfl | rfl := hc
  · exact hx
  · unfold upperOf
    split <;> bv_omega
  · unfold lowerOf
    split <;> bv_omega

/-- The ignored sets: none, or `-` alone (R138). -/
theorem rom_ign (v : Variant) :
    (rom v).ign = ignoreNone ∨ (rom v).ign = ignoreNone.set (0x2D#8 : Byte).toNat true := by
  cases v
  case base32Crockford => exact .inr rfl
  all_goals exact .inl rfl

theorem rom_ignAt_of_ne_dash (v : Variant) {c : Byte} (h : c ≠ 0x2D#8) : (rom v).ignAt c = false := by
  have hnone : (rom v).ign[c.toNat]? = ignoreNone[c.toNat]? := by
    obtain hign | hign := rom_ign v
    · rw [hign]
    · rw [hign, getElem?_set_toNat_of_ne h]
  rw [Descriptor.ignAt, List.getD_eq_getElem?_getD, hnone]
  exact getElem?_replicate_getD ..

/-- The pad symbol of a record that has one is `=` (R137). -/
theorem rom_padSymbol (v : Variant) : (rom v).hasPad = true → (rom v).padSymbol = equalsSign := by
  cases v <;> decide

/-- A character is *invalid* exactly when it is neither ignored nor the pad symbol and has no table value (R134). -/
theorem classify_eq_invalid_iff {D : Descriptor} {c : Byte} :
    classify D c = .invalid ↔
      D.ignAt c = false ∧ ¬ (D.hasPad = true ∧ c = D.padSymbol) ∧ D.decAt c = invalidEntry := by
  unfold classify
  split
  case isTrue hign => simp [hign]
  case isFalse hign =>
    split
    case isTrue hpad => simp_all
    case isFalse hpad => split <;> simp_all

/-- A character that is not graphic is no symbol, no pad and not ignored. -/
theorem classify_of_not_isGraphic (v : Variant) {c : Byte} (h : isGraphic c = false) :
    classify (rom v) c = .invalid := by
  refine classify_eq_invalid_iff.2 ⟨rom_ignAt_of_ne_dash v ?_, ?_, rom_decAt_of_notMem fun x hx hc => ?_⟩
  · rintro rfl
    exact absurd h (by decide)
  · rintro ⟨hpad, rfl⟩
    rw [rom_padSymbol v hpad] at h
    exact absurd h (by decide)
  · have hgraphic := isGraphic_of_mem_caseVariants (List.all_eq_true.1 (symbolString_graphic v) x hx) hc
    exact Bool.false_ne_true (h.symm.trans hgraphic)

/-- Settles O41: the classes outside the graphic characters by what the builder leaves invalid, those of the single
characters by looking each up in the tables. -/
theorem classesOfSpecialCharacters : Obligations.ClassesOfSpecialCharacters := by
  refine ⟨fun v c h => classify_of_not_isGraphic v ?graphic, fun v => ?equals, fun v => ?dash, ?crockford⟩
  case graphic =>
    simp only [isGraphic, Bool.and_eq_false_iff, decide_eq_false_iff_not]
    omega
  case equals => cases v <;> rfl
  case dash => cases v <;> rfl
  case crockford => decide

end Sys2Proof.Machine
end

section
/-! PROOFS. The size calculators (41_size.md): their formulas, the remainder table, and what `ESZ`, `DMS` and the
width limit make of them. -/

namespace Sys2Proof.Machine

/-! The formulas, by size class. -/

theorem encodedSize_eq (D : Descriptor) (n : Nat) :
    encodedSize D n = if D.padPolicy = .required then
        n / D.blockBytes * D.blockSymbols + (if n % D.blockBytes ≠ 0 then D.blockSymbols else 0)
      else (8 * n + D.bitsPerSymbol - 1) / D.bitsPerSymbol := by
  split
  case isTrue h => rw [encodedSize_of_padded h, ite_not]
  case isFalse h => exact encodedSize_of_unpadded h n

theorem decodedMaxSize_eq (D : Descriptor) (n : Nat) :
    decodedMaxSize D n = if D.padPolicy = .required then
        n / D.blockSymbols * D.blockBytes + partialBytes D (n % D.blockSymbols)
      else n * D.bitsPerSymbol / 8 := by
  simp only [decodedMaxSize, Descriptor.padded, beq_iff_eq]

/-! The remainder table. -/

/-- `ceil(a / b)` is the least number of `b`s that cover `a` (41_size.md R177). -/
theorem le_ceilDiv_mul (a : Nat) {b : Nat} (hb : 0 < b) : a ≤ ceilDiv a b * b := by
  have hlt := Nat.lt_div_mul_add (a := a + b - 1) hb
  unfold ceilDiv
  omega

theorem ceilDiv_mul_lt (a : Nat) {b : Nat} (hb : 0 < b) : ceilDiv a b * b < a + b := by
  have hle := Nat.div_mul_le_self (a + b - 1) b
  unfold ceilDiv
  omega

/-- Settles O15: the inequalities for every number of bytes, the values record by record. -/
theorem dataSymbolsOfAPartialGroup : Obligations.DataSymbolsOfAPartialGroup := by
  intro v
  obtain ⟨hbps, -⟩ := rom_block v
  refine ⟨fun r _ => ⟨ceilDiv_mul_lt _ hbps, le_ceilDiv_mul _ hbps⟩, ?values, ?fullGroup⟩
  case values => cases v <;> rfl
  case fullGroup => cases v <;> rfl

/-- The remainder table is the set of `data_symbols(r)` for partial groups (41_size.md R172). -/
theorem validRem_iff {D : Descriptor} {m : Nat} :
    validRem D m = true ↔ ∃ r < D.blockBytes, m = dataSymbols D r := by
  simp only [validRem, List.any_eq_true, List.mem_range, beq_iff_eq, eq_comm (a := m)]

/-- Outside of the table `partial_bytes` finds nothing (R173). -/
theorem partialBytes_of_not_validRem {D : Descriptor} {m : Nat} (h : validRem D m = false) :
    partialBytes D m = 0 := by
  rw [partialBytes, List.find?_eq_none.2 (List.any_eq_false.1 h), Option.getD_none]

/-- `m` symbols of a valid remainder hold `floor(m * bps / 8)` bytes, and no other number of bytes has `m` symbols. -/
theorem partialBytes_dataSymbols (v : Variant) : ∀ r < (rom v).blockBytes,
    partialBytes (rom v) (dataSymbols (rom v) r) = r ∧ dataSymbols (rom v) r * (rom v).bitsPerSymbol / 8 = r := by
  cases v <;> decide

/-- A remainder is valid when its last symbol is needed: fewer than `bps` bits are left over (R172). -/
theorem validRem_iff_leftoverBits (v : Variant) : ∀ m < (rom v).blockSymbols,
    (validRem (rom v) m = true ↔ m * (rom v).bitsPerSymbol % 8 < (rom v).bitsPerSymbol) := by
  cases v <;> decide

/-- Settles O16: a valid `m` is `data_symbols(r)` for one `r`, which `partial_bytes` gives back. -/
theorem remainderTableFunctions : Obligations.RemainderTableFunctions := by
  intro v m hm
  refine ⟨validRem_iff, validRem_iff_leftoverBits v m hm, ?table, ?ofBytes, fun h => ?floor,
    partialBytes_of_not_validRem, fun _ => rfl⟩
  case table =>
    revert m
    cases v <;> decide
  case ofBytes =>
    rintro r hr rfl
    obtain ⟨hbytes, -⟩ := partialBytes_dataSymbols v r hr
    exact hbytes
  case floor =>
    obtain ⟨r, hr, rfl⟩ := validRem_iff.1 h
    obtain ⟨hbytes, hfloor⟩ := partialBytes_dataSymbols v r hr
    rw [hbytes, hfloor]

/-! `ESZ` and `DMS`. -/

theorem op_of_mem_eszCommands : ∀ {i : Instr}, i ∈ eszCommands → i.op = .esz := by decide

theorem op_of_mem_dmsCommands : ∀ {i : Instr}, i ∈ dmsCommands → i.op = .dms := by decide

theorem op_of_mem_encCommands : ∀ {i : Instr}, i ∈ encCommands → i.op = .enc := by decide

theorem op_of_mem_decCommands : ∀ {i : Instr}, i ∈ decCommands → i.op = .dec := by decide

/-- A call that answers a number leaves it in RLEN, and the memory, LEN and CMD as they are (41_size.md R170). -/
theorem State.answer_finish (s : State) (n : Nat) :
    (s.answer n).finish.rlen = n ∧ (s.answer n).finish.ended .none ∧ (s.answer n).finish.mem = s.mem ∧
      (s.answer n).finish.len = s.len ∧ (s.answer n).finish.cmd = s.cmd :=
  ⟨rfl, State.finish_ended _, rfl, rfl, rfl⟩

/-- Settles O13: the premise of `ESZ` is that the size fits, and its answer is the size. -/
theorem eszGivesTheEncodedSize : Obligations.EszGivesTheEncodedSize := by
  intro i hi s size hsize hfits
  rw [← encodedSize_eq] at hsize
  subst hsize
  have hop := op_of_mem_eszCommands hi
  have hprem : s.premises i := by rw [State.premises, hop]; exact hfits
  obtain ⟨t, ht⟩ := exec_of_premises hprem
  refine ⟨t, ht, ?_⟩
  rw [exec_eq_callOf, hop] at ht
  obtain ⟨-, rfl⟩ := eszCall_next ht
  exact s.answer_finish _

/-- Settles O14: `DMS` has no premise, and its answer is the bound, which is at most LEN. -/
theorem dmsGivesTheDecodedMaxSize : Obligations.DmsGivesTheDecodedMaxSize := by
  intro i hi s
  have hcall : exec i s = dmsCall i.record s := by rw [exec_eq_callOf, op_of_mem_dmsCommands hi]; rfl
  obtain ⟨hrlen, hframe⟩ := s.answer_finish (decodedMaxSize i.record s.operand)
  refine ⟨_, hcall.trans (dmsCall_next i.record s), hrlen.trans (decodedMaxSize_eq _ _), ?_, hframe⟩
  rw [hrlen]
  exact decodedMaxSize_le i.variant s.operand

/-! The width limit. -/

theorem State.widthRefusal_eq_some_iff {s : State} {D : Descriptor} {r : Refusal} :
    s.widthRefusal D = some r ↔ r = .lengthRange ∧ 2 ^ Config.lenW ≤ encodedSize D s.operand := by
  rw [← Nat.not_lt, ← fitsLen_iff, State.widthRefusal, State.operand]
  split
  case isTrue hfits => simp [hfits]
  case isFalse hfits => simp [hfits, eq_comm (a := r)]

/-- The sink is no reason for `lengthRange` (20_memory.md R66, R69). -/
theorem State.sinkRefusal_ne_lengthRange (s : State) (frame : Nat) :
    s.sinkRefusal frame ≠ some .lengthRange := by
  unfold State.sinkRefusal
  split
  · simp
  · split <;> simp

/-- A call is refused with `lengthRange` exactly for the width, which is its first premise (log 10). -/
theorem State.callRefusal_lengthRange_iff {s : State} {op : Op} {D : Descriptor} (hop : op = .esz ∨ op = .enc) :
    s.callRefusal op D = some .lengthRange ↔ 2 ^ Config.lenW ≤ encodedSize D s.operand := by
  obtain rfl | rfl := hop
  · simp [State.callRefusal, State.widthRefusal_eq_some_iff]
  · simp [State.callRefusal, Option.or_eq_some_iff, State.widthRefusal_eq_some_iff, State.sinkRefusal_ne_lengthRange]

/-- The largest input whose text has fewer than `2^32` symbols, for each record (41_size.md R178). -/
theorem encodedSize_lt_two_pow_32_iff (v : Variant) (n : Nat) : encodedSize (rom v) n < 2 ^ 32 ↔ n ≤
    (match v with
      | .hexUpper | .hexLower => 2147483647
      | .base32Rfc4648 | .base32Hex => 2684354555
      | .base32Crockford => 2684354559
      | .base64Rfc4648 | .base64Url => 3221225469
      | .base64UrlUnpadded => 3221225471) := by
  cases v
  case hexUpper | hexLower =>
    rw [encodedSize_of_unpadded (by decide)]
    change (8 * n + 4 - 1) / 4 < 2 ^ 32 ↔ n ≤ 2147483647
    omega
  case base32Crockford =>
    rw [encodedSize_of_unpadded (by decide)]
    change (8 * n + 5 - 1) / 5 < 2 ^ 32 ↔ n ≤ 2684354559
    omega
  case base64UrlUnpadded =>
    rw [encodedSize_of_unpadded (by decide)]
    change (8 * n + 6 - 1) / 6 < 2 ^ 32 ↔ n ≤ 3221225471
    omega
  case base32Rfc4648 | base32Hex =>
    rw [encodedSize_of_padded (by decide)]
    change n / 5 * 8 + (if n % 5 = 0 then 0 else 8) < 2 ^ 32 ↔ n ≤ 2684354555
    split <;> omega
  case base64Rfc4648 | base64Url =>
    rw [encodedSize_of_padded (by decide)]
    change n / 3 * 4 + (if n % 3 = 0 then 0 else 4) < 2 ^ 32 ↔ n ≤ 3221225469
    split <;> omega

/-- Settles O17: a call's only `lengthRange` is the width premise's, and `ESZ` has no other premise. -/
theorem widthLimitOfEszAndEnc : Obligations.WidthLimitOfEszAndEnc := by
  refine ⟨fun i hi s => ?_, fun i hi s r h => ?_, encodedSize_lt_two_pow_32_iff⟩
  · have hop : i.op = .esz ∨ i.op = .enc :=
      (List.mem_append.1 hi).imp op_of_mem_eszCommands op_of_mem_encCommands
    rw [exec_eq_callOf, callOf_refused, State.callRefusal_lengthRange_iff hop]
  · rw [exec_eq_callOf, callOf_refused, op_of_mem_eszCommands hi] at h
    exact (State.widthRefusal_eq_some_iff.1 h).2

end Sys2Proof.Machine
end

section
/-! PROOFS. How many units a decode writes (43_decode.md R213 to R224, 41_size.md R179): the scan counts the data and
the pad characters of the input, and the emission gives one byte for each eight bits of the data characters. -/

namespace Sys2Proof.Machine

/-! The input as a list. -/

theorem State.inputUnits_length (s : State) : s.inputUnits.length = s.operand := by simp [State.inputUnits]

theorem State.inputUnits_drop_of_le {s : State} (h : s.operand ≤ s.idx) : s.inputUnits.drop s.idx = [] :=
  List.drop_eq_nil_of_le (s.inputUnits_length ▸ h)

/-- What is still to be read begins with the unit at IDX. -/
theorem State.inputUnits_drop_idx {s : State} (h : s.idx < s.operand) :
    s.inputUnits.drop s.idx = [s.inUnit s.idx] ++ s.inputUnits.drop (s.idx + 1) := by
  rw [List.drop_eq_getElem_cons (s.inputUnits_length ▸ h), List.singleton_append]
  simp [State.inputUnits]

/-- Appending within a frame that shares no unit with the input leaves the input (20_memory.md R69). -/
theorem AppendsOnly.inputUnits_eq {s t : State} {frame : Nat} (h : AppendsOnly s t) (hin : t.inAt = s.inAt)
    (hlen : t.len = s.len) (hfree : ¬ s.sharesUnits frame) (hframe : t.rlen ≤ frame) :
    t.inputUnits = s.inputUnits := by
  obtain ⟨-, -, hread⟩ := h
  rw [State.inputUnits, State.operand, hlen]
  refine List.map_congr_left fun i hi => ?_
  rw [State.inUnit, hin]
  refine State.unitAt_congr (hread _ ?_)
  refine Classical.not_not.1 fun hboth => hfree ⟨i, List.mem_range.1 hi, s.inAt + i - s.outAt, ?_, ?_⟩ <;> omega

/-! The counters of the scan. -/

theorem dataValues_append (D : Descriptor) (xs ys : List Byte) :
    dataValues D (xs ++ ys) = dataValues D xs ++ dataValues D ys := List.filterMap_append

theorem padCountOf_append (D : Descriptor) (xs ys : List Byte) :
    padCountOf D (xs ++ ys) = padCountOf D xs + padCountOf D ys := List.countP_append

/-- No character is counted twice. -/
theorem dataValues_length_add_padCountOf_le (D : Descriptor) (text : List Byte) :
    (dataValues D text).length + padCountOf D text ≤ text.length := by
  induction text with
  | nil => exact Nat.le_refl 0
  | cons c text ih =>
    have hc : (dataValues D [c]).length + padCountOf D [c] ≤ 1 := by
      simp only [dataValues, padCountOf, List.filterMap_cons, List.filterMap_nil, List.countP_singleton]
      cases classify D c <;> simp [CharClass.value?]
    rw [← List.singleton_append, dataValues_append, padCountOf_append, List.length_append, List.length_append,
      List.length_singleton]
    omega

/-- Scanning one unit counts it by its class (R214). -/
theorem scanUnit_counts {D : Descriptor} {s t : State} (h : scanUnit D s = some t) :
    t.idx = s.idx + 1 ∧ t.dataCount = s.dataCount + (dataValues D [s.inUnit s.idx]).length ∧
    t.padCount = s.padCount + padCountOf D [s.inUnit s.idx] := by
  unfold scanUnit State.classAtIdx at h
  cases hc : classify D (s.inUnit s.idx) <;> rw [hc] at h
  case invalid => cases h
  all_goals
    cases h
    simp [dataValues, padCountOf, CharClass.value?, hc]

/-- The scan adds the data and the pad characters still to be read to the counters (R213). -/
theorem scanUnits_counts {D : Descriptor} {n : Nat} {s t : State} (h : scanUnits D n s = some t)
    (hn : s.operand - s.idx ≤ n) :
    t.dataCount = s.dataCount + (dataValues D (s.inputUnits.drop s.idx)).length ∧
    t.padCount = s.padCount + padCountOf D (s.inputUnits.drop s.idx) := by
  induction n generalizing s with
  | zero =>
    cases h
    rw [State.inputUnits_drop_of_le (by omega)]
    exact ⟨rfl, rfl⟩
  | succ n ih =>
    simp only [scanUnits] at h
    split at h
    case isFalse hidx =>
      cases h
      rw [State.inputUnits_drop_of_le (by omega)]
      exact ⟨rfl, rfl⟩
    case isTrue hidx =>
      obtain ⟨u, hu, ht⟩ := Option.bind_eq_some_iff.1 h
      obtain ⟨huidx, hudata, hupad⟩ := scanUnit_counts hu
      have huop : u.operand = s.operand := by rw [scanUnit_eq hu]; rfl
      have huin : u.inputUnits = s.inputUnits := by rw [scanUnit_eq hu]; rfl
      have hrest := ih ht (by omega)
      rw [huin, huidx, hudata, hupad] at hrest
      rw [State.inputUnits_drop_idx hidx, dataValues_append, padCountOf_append, List.length_append, ← Nat.add_assoc,
        ← Nat.add_assoc]
      exact hrest

/-! The bits of the emission. -/

/-- The code bits of an emission: those of the bytes written, those pending in ACC, and those of the data characters
still to be read (R223). -/
def State.codeBits (D : Descriptor) (s : State) : Nat :=
  8 * s.rlen + s.accBits.toNat + D.bitsPerSymbol * (dataValues D (s.inputUnits.drop s.idx)).length

/-- Absorbing a symbol value adds `bps` bits to those written and pending. -/
theorem State.absorb_bits (D : Descriptor) (s : State) (v : Byte) :
    8 * (s.absorb D v).rlen + (s.absorb D v).accBits.toNat = 8 * s.rlen + s.accBits.toNat + D.bitsPerSymbol := by
  have hbps : D.bitsPerSymbol < 8 := D.bps.isLt
  have hacc := s.accBits.isLt
  by_cases h8 : 8 ≤ s.accBits.toNat + D.bitsPerSymbol
  · simp only [State.absorb, absorbValue, if_pos h8, State.append_rlen, BitVec.toNat_ofNat]
    omega
  · simp only [State.absorb, absorbValue, if_neg h8, BitVec.toNat_ofNat]
    omega

/-- The emission of one unit adds its bits, if it is a data character (R222). -/
theorem emitUnit_bits (D : Descriptor) (s : State) :
    8 * (emitUnit D s).rlen + (emitUnit D s).accBits.toNat =
      8 * s.rlen + s.accBits.toNat + D.bitsPerSymbol * (dataValues D [s.inUnit s.idx]).length := by
  unfold emitUnit State.classAtIdx
  cases hc : classify D (s.inUnit s.idx)
  case data v => simpa [dataValues, CharClass.value?, hc] using s.absorb_bits D v
  all_goals simp [dataValues, CharClass.value?, hc]

/-- While the code bits fit a frame that shares no unit with the input, the emission of a unit keeps the input
unwritten, and so the number of code bits. -/
theorem emitUnit_codeBits {D : Descriptor} {s : State} {frame : Nat} (hidx : s.idx < s.operand)
    (hfree : ¬ s.sharesUnits frame) (hbits : s.codeBits D < 8 * (frame + 1)) :
    (emitUnit D s).codeBits D = s.codeBits D := by
  have hunit := emitUnit_bits D s
  simp only [State.codeBits, State.inputUnits_drop_idx hidx, dataValues_append, List.length_append, Nat.mul_add]
    at hbits ⊢
  rw [(emitUnit_appendsOnly D s).inputUnits_eq (by rw [emitUnit_eq]) (emitUnit_len D s) hfree (by omega), hunit,
    emitUnit_idx]
  omega

theorem State.rlen_le_of_codeBits_lt {D : Descriptor} {s : State} {frame : Nat}
    (h : s.codeBits D < 8 * (frame + 1)) : s.rlen ≤ frame := by
  unfold State.codeBits at h
  omega

/-- So the whole emission writes no more than the frame (41_size.md R179). -/
theorem emitUnits_rlen_le_frame {D : Descriptor} {n frame : Nat} {s : State} (hfree : ¬ s.sharesUnits frame)
    (hbits : s.codeBits D < 8 * (frame + 1)) : (emitUnits D n s).rlen ≤ frame := by
  induction n generalizing s with
  | zero => exact State.rlen_le_of_codeBits_lt hbits
  | succ n ih =>
    simp only [emitUnits]
    split
    case isFalse => exact State.rlen_le_of_codeBits_lt hbits
    case isTrue hidx =>
      have hfree' : ¬ (emitUnit D s).sharesUnits frame := by rw [emitUnit_eq]; exact hfree
      exact ih hfree' (emitUnit_codeBits hidx hfree hbits ▸ hbits)

/-! The bound. -/

/-- Under policy `required` the checks pass only a text of full blocks (43_decode.md R217). -/
theorem checkCounts_none_fullBlocks {D : Descriptor} {dap : Bool} {dataCount padCount : Nat}
    (hpad : D.padPolicy = .required) (h : checkCounts D dap dataCount padCount = .none) :
    (dataCount + padCount) % D.blockSymbols = 0 := by
  refine Classical.not_not.1 fun hne => ?_
  have hform : paddedForm D padCount = true := by simp [paddedForm, hpad]
  simp only [checkCounts, hform, true_and, if_pos hne] at h
  split at h <;> cases h

/-- The whole bytes of the data characters of a text are within `decoded_max_size` (41_size.md R175): under policy
`required` the text is full blocks, each of `bbc` bytes. -/
theorem dataBytes_le_decodedMaxSize (v : Variant) {dataCount padCount n : Nat} (hn : dataCount + padCount ≤ n)
    (hfull : (rom v).padPolicy = .required → (dataCount + padCount) % (rom v).blockSymbols = 0) :
    dataCount * (rom v).bitsPerSymbol / 8 ≤ decodedMaxSize (rom v) n := by
  obtain ⟨-, -, -, -, hblock⟩ := rom_block v
  rw [decodedMaxSize_eq]
  split
  case isFalse => exact Nat.div_le_div_right (Nat.mul_le_mul_right _ (by omega))
  case isTrue hpad =>
    have hdiv := Nat.div_mul_cancel (Nat.dvd_of_mod_eq_zero (hfull hpad))
    calc dataCount * (rom v).bitsPerSymbol / 8
        ≤ (dataCount + padCount) * (rom v).bitsPerSymbol / 8 :=
          Nat.div_le_div_right (Nat.mul_le_mul_right _ (Nat.le_add_right _ _))
      _ = (dataCount + padCount) / (rom v).blockSymbols * (rom v).blockBytes := by
          rw [← hdiv, Nat.mul_assoc, hblock, ← Nat.mul_assoc, Nat.mul_div_cancel _ (by decide), hdiv]
      _ ≤ n / (rom v).blockSymbols * (rom v).blockBytes :=
          Nat.mul_le_mul_right _ (Nat.div_le_div_right hn)
      _ ≤ _ := Nat.le_add_right _ _

/-- At the start of the emission of a text that passed the checks, the code bits fit the write frame. -/
theorem beginEmit_codeBits_lt (v : Variant) {s u : State}
    (hscan : scanUnits (rom v) s.operand (s.startPhase .scan) = some u) (hcheck : u.checkErr (rom v) = .none) :
    u.beginEmit.codeBits (rom v) < 8 * (decodedMaxSize (rom v) s.operand + 1) := by
  have ⟨(hdata : u.dataCount = 0 + (dataValues (rom v) s.inputUnits).length),
    (hpad : u.padCount = 0 + padCountOf (rom v) s.inputUnits)⟩ := scanUnits_counts hscan (Nat.sub_le _ _)
  have hin : u.inputUnits = s.inputUnits := by rw [scanUnits_eq hscan]; rfl
  have hle := s.inputUnits_length ▸ dataValues_length_add_padCountOf_le (rom v) s.inputUnits
  have hbytes := dataBytes_le_decodedMaxSize v (dataCount := u.dataCount) (padCount := u.padCount)
    (n := s.operand) (by omega) fun hreq => checkCounts_none_fullBlocks hreq hcheck
  have hcode : u.beginEmit.codeBits (rom v) = u.dataCount * (rom v).bitsPerSymbol := by
    change 0 + 0 + (rom v).bitsPerSymbol * (dataValues (rom v) u.inputUnits).length = _
    rw [hin, hdata, Nat.zero_add, Nat.zero_add, Nat.mul_comm]
  omega

/-- Settles O29: a `raise` leaves a value up to the bound in RLEN, and the emission writes the whole bytes of the
text's data characters. -/
theorem decResultIsBoundedByDms : Obligations.DecResultIsBoundedByDms := by
  intro i hi s t h
  refine ⟨?_, decodedMaxSize_le i.variant s.operand⟩
  have hprem : s.premises i := premises_iff.1 (exec_next h).1
  rw [State.premises, op_of_mem_decCommands hi] at hprem
  obtain ⟨-, hfree⟩ := hprem
  rw [exec_eq_callOf, op_of_mem_decCommands hi] at h
  obtain ⟨-, ⟨-, rfl⟩ | ⟨u, hscan, ⟨-, rfl⟩ | ⟨hcheck, rfl⟩⟩⟩ := decCall_next h
  · exact rlenUpTo_le _ _
  · exact rlenUpTo_le _ _
  · refine emitUnits_rlen_le_frame ?_ (beginEmit_codeBits_lt i.variant hscan hcheck)
    rw [scanUnits_eq hscan]
    exact hfree

end Sys2Proof.Machine
end

section
/-! PROOFS. The block mapper in numbers (30_encoding.md R102 to R107, 42_encode.md R198): `pack` writes the number of
the bytes in base `2^bps`, with zero bits up to a whole symbol, and `unpack` takes the bytes of that number again. -/

namespace Sys2Proof.Machine

/-! Numbers and their digits (20_memory.md R70). -/

/-- Induction over a sequence from its last entry, as `bigEndian` reads it. -/
theorem concat_induction {α : Type} {P : List α → Prop} (nil : P []) (concat : ∀ xs x, P xs → P (xs ++ [x]))
    (xs : List α) : P xs := by
  rw [← xs.reverse_reverse]
  induction xs.reverse with
  | nil => exact nil
  | cons x xs ih =>
    rw [List.reverse_cons]
    exact concat _ _ ih

/-- The `m` lowest digits of a number, the most significant first. -/
def digitsOf (base m N : Nat) : List Nat := (List.range m).map fun k => N / base ^ (m - 1 - k) % base

/-- The last digit is the remainder, and the digits before it are those of the quotient. -/
theorem digitsOf_succ (base m N : Nat) : digitsOf base (m + 1) N = digitsOf base m (N / base) ++ [N % base] := by
  simp only [digitsOf, List.range_succ, List.map_append, List.map_singleton, Nat.add_sub_cancel, Nat.sub_self,
    Nat.pow_zero, Nat.div_one]
  congr 1
  refine List.map_congr_left fun k hk => ?_
  have hk := List.mem_range.1 hk
  rw [Nat.div_div_eq_div_mul, ← Nat.pow_succ', show (m - 1 - k).succ = m - k by omega]

/-- The number of the lowest digits of `N`. -/
theorem bigEndian_digitsOf (base m N : Nat) : bigEndian base (digitsOf base m N) = N % base ^ m := by
  induction m generalizing N with
  | zero => rw [Nat.pow_zero, Nat.mod_one]; rfl
  | succ m ih => rw [digitsOf_succ, bigEndian_concat, ih, Nat.pow_succ', Nat.mod_mul, Nat.add_comm]

theorem bigEndian_append (base : Nat) (xs ys : List Nat) :
    bigEndian base (xs ++ ys) = bigEndian base xs * base ^ ys.length + bigEndian base ys := by
  induction ys using concat_induction with
  | nil => simp [bigEndian]
  | concat ys d ih =>
    rw [← List.append_assoc, bigEndian_concat, bigEndian_concat, ih, List.length_append, List.length_singleton,
      Nat.pow_succ', Nat.mul_add, Nat.mul_left_comm base, Nat.add_assoc]

theorem bigEndian_lt {base : Nat} {ds : List Nat} (h : ∀ d ∈ ds, d < base) :
    bigEndian base ds < base ^ ds.length := by
  induction ds using concat_induction with
  | nil => exact Nat.one_pos
  | concat ds d ih =>
    have hd : d < base := h d (by simp)
    have hds := ih fun x hx => h x (List.mem_append_left _ hx)
    rw [bigEndian_concat, List.length_append, List.length_singleton, Nat.pow_succ']
    calc base * bigEndian base ds + d < base * (bigEndian base ds + 1) := by rw [Nat.mul_add]; omega
      _ ≤ base * base ^ ds.length := Nat.mul_le_mul_left _ hds

/-- Digits below the base are the digits of their number. -/
theorem digitsOf_bigEndian {base : Nat} {ds : List Nat} (h : ∀ d ∈ ds, d < base) :
    digitsOf base ds.length (bigEndian base ds) = ds := by
  induction ds using concat_induction with
  | nil => rfl
  | concat ds d ih =>
    have hd : d < base := h d (by simp)
    have hds := ih fun x hx => h x (List.mem_append_left _ hx)
    rw [bigEndian_concat, List.length_append, List.length_singleton, digitsOf_succ,
      Nat.mul_add_div (by omega), Nat.div_eq_of_lt hd, Nat.add_zero, hds, Nat.mul_add_mod, Nat.mod_eq_of_lt hd]

/-- The number of a sequence of bytes. -/
def byteNumber (B : List Byte) : Nat := bigEndian 256 (B.map BitVec.toNat)

theorem byteNumber_append (B C : List Byte) :
    byteNumber (B ++ C) = byteNumber B * 2 ^ (8 * C.length) + byteNumber C := by
  rw [byteNumber, List.map_append, bigEndian_append, List.length_map, Nat.pow_mul]
  rfl

theorem byteNumber_lt (B : List Byte) : byteNumber B < 2 ^ (8 * B.length) := by
  have h := bigEndian_lt (base := 256) (ds := B.map BitVec.toNat) fun d hd => by
    obtain ⟨b, -, rfl⟩ := List.mem_map.1 hd
    exact b.isLt
  rwa [List.length_map, show 256 = 2 ^ 8 from rfl, ← Nat.pow_mul] at h

/-- The bytes are the digits of their number. -/
theorem digitsOf_byteNumber (B : List Byte) :
    (digitsOf 256 B.length (byteNumber B)).map (BitVec.ofNat 8) = B := by
  have h := digitsOf_bigEndian (base := 256) (ds := B.map BitVec.toNat) fun d hd => by
    obtain ⟨b, -, rfl⟩ := List.mem_map.1 hd
    exact b.isLt
  rw [List.length_map] at h
  rw [byteNumber, h, List.map_map]
  exact List.map_id'' (fun b => BitVec.ofNat_toNat 8 b) B

/-- Sequences of bytes of the same length and number are the same. -/
theorem eq_of_byteNumber_eq {B C : List Byte} (hlen : B.length = C.length) (h : byteNumber B = byteNumber C) :
    B = C := by
  rw [← digitsOf_byteNumber B, hlen, h, digitsOf_byteNumber]

/-! `pack` and `unpack`. -/

/-- How many zero bits fill up the last symbol of `n` bytes (42_encode.md R193). -/
def fillBits (D : Descriptor) (n : Nat) : Nat := dataSymbols D n * D.bitsPerSymbol - 8 * n

/-- The symbols of `n` bytes hold their bits and the zero bits, fewer than a symbol. -/
theorem dataSymbols_mul (v : Variant) (n : Nat) :
    dataSymbols (rom v) n * (rom v).bitsPerSymbol = 8 * n + fillBits (rom v) n ∧
      fillBits (rom v) n < (rom v).bitsPerSymbol := by
  obtain ⟨hbps, -⟩ := rom_block v
  have hle := le_ceilDiv_mul (8 * n) hbps
  have hlt := ceilDiv_mul_lt (8 * n) hbps
  unfold fillBits dataSymbols
  omega

/-- `pack` writes the number of the bytes and the zero bits in base `2^bps`. -/
theorem pack_eq_digitsOf (v : Variant) {B : List Byte} (hB : B.length ≤ (rom v).blockBytes) :
    pack (rom v) B = digitsOf (2 ^ (rom v).bitsPerSymbol) (dataSymbols (rom v) B.length)
      (byteNumber B * 2 ^ fillBits (rom v) B.length) := by
  refine List.map_congr_left fun k hk => ?_
  obtain ⟨hbits, -⟩ := dataSymbols_mul v B.length
  have hfits := dataSymbols_mul_le v _ hB
  obtain ⟨j, hj⟩ := Nat.exists_eq_add_of_lt (List.mem_range.1 hk)
  have hmul : dataSymbols (rom v) B.length * (rom v).bitsPerSymbol =
      (k + 1) * (rom v).bitsPerSymbol + (rom v).bitsPerSymbol * j := by
    rw [hj, show k + j + 1 = k + 1 + j by omega, Nat.add_mul (k + 1), Nat.mul_comm j]
  obtain ⟨a, ha⟩ := Nat.exists_eq_add_of_le hfits
  have hgroup : groupNumber (rom v) B = byteNumber B * 2 ^ fillBits (rom v) B.length * 2 ^ a := by
    rw [groupNumber, show 256 = 2 ^ 8 from rfl, ← Nat.pow_mul, Nat.mul_assoc, ← Nat.pow_add]
    congr 2
    omega
  rw [hgroup, ← Nat.pow_mul, hj, show k + j + 1 - 1 - k = j by omega,
    show 8 * (rom v).blockBytes - (k + 1) * (rom v).bitsPerSymbol = (rom v).bitsPerSymbol * j + a by omega,
    Nat.pow_add, Nat.mul_div_mul_right _ _ (Nat.two_pow_pos _)]

theorem pack_length (D : Descriptor) (B : List Byte) : (pack D B).length = dataSymbols D B.length := by simp [pack]

/-- The number of the symbols of a group. -/
theorem bigEndian_pack (v : Variant) {B : List Byte} (hB : B.length ≤ (rom v).blockBytes) :
    bigEndian (2 ^ (rom v).bitsPerSymbol) (pack (rom v) B) = byteNumber B * 2 ^ fillBits (rom v) B.length := by
  obtain ⟨hbits, -⟩ := dataSymbols_mul v B.length
  rw [pack_eq_digitsOf v hB, bigEndian_digitsOf, ← Nat.pow_mul, Nat.mul_comm (rom v).bitsPerSymbol, hbits,
    Nat.pow_add]
  exact Nat.mod_eq_of_lt (Nat.mul_lt_mul_of_pos_right (byteNumber_lt B) (Nat.two_pow_pos _))

/-- The block of the symbols of a group is the group (R107: missing symbols are zero). -/
theorem blockNumber_pack (v : Variant) {B : List Byte} (hB : B.length ≤ (rom v).blockBytes) :
    blockNumber (rom v) (pack (rom v) B) = byteNumber B * 2 ^ (8 * ((rom v).blockBytes - B.length)) := by
  obtain ⟨-, -, -, -, hblock⟩ := rom_block v
  obtain ⟨hbits, -⟩ := dataSymbols_mul v B.length
  have hfits := dataSymbols_mul_le v _ hB
  rw [blockNumber, bigEndian_pack v hB, pack_length, ← Nat.pow_mul, Nat.mul_assoc, ← Nat.pow_add,
    Nat.mul_comm (rom v).bitsPerSymbol, Nat.sub_mul]
  congr 2
  omega

/-- The symbols of a group yield as many bytes as the group has (43_decode.md R227). -/
theorem blockYield_dataSymbols (v : Variant) : ∀ r ≤ (rom v).blockBytes,
    blockYield (rom v) (dataSymbols (rom v) r) = r := by
  cases v <;> decide

/-- Settles O38: the block of the symbols is the group, whose first bytes are those packed. -/
theorem unpackOfPackIsTheGroup : Obligations.UnpackOfPackIsTheGroup := by
  intro v B _ hB
  calc unpack (rom v) (pack (rom v) B)
      = (digitsOf 256 B.length (byteNumber B)).map (BitVec.ofNat 8) := by
        rw [unpack, blockNumber_pack v hB, pack_length, blockYield_dataSymbols v _ hB, digitsOf, List.map_map]
        refine List.map_congr_left fun j hj => ?_
        have hj := List.mem_range.1 hj
        rw [show 8 * (rom v).blockBytes - 8 * (j + 1) =
            8 * (B.length - 1 - j) + 8 * ((rom v).blockBytes - B.length) by omega,
          Nat.pow_add, Nat.mul_div_mul_right _ _ (Nat.two_pow_pos _), Nat.pow_mul]
        exact BitVec.eq_of_toNat_eq (Nat.mod_mod _ _).symm
    _ = B := digitsOf_byteNumber B

end Sys2Proof.Machine
end

section
/-! PROOFS. The encoded text of a whole byte sequence (42_encode.md R191 to R196): its symbol values are the number of
the bytes in base `2^bps`, and the text is their characters followed by the pad symbols of the last group. -/

namespace Sys2Proof.Machine

/-! Blocks. -/

theorem ceilDiv_zero (b : Nat) : ceilDiv 0 b = 0 := by
  unfold ceilDiv
  cases b with
  | zero => rfl
  | succ b => exact Nat.div_eq_of_lt (by omega)

@[simp] theorem blocksOf_nil {α : Type} (n : Nat) : blocksOf n ([] : List α) = [] := by
  simp [blocksOf, ceilDiv_zero]

/-- The first block, then the blocks of the rest. -/
theorem blocksOf_eq_cons {α : Type} {n : Nat} (hn : 0 < n) {xs : List α} (hxs : xs ≠ []) :
    blocksOf n xs = xs.take n :: blocksOf n (xs.drop n) := by
  have hpos := List.length_pos_iff.2 hxs
  have hcount : ceilDiv xs.length n = ceilDiv (xs.length - n) n + 1 := by
    obtain hle | hle := Nat.le_total xs.length n
    · rw [Nat.sub_eq_zero_of_le hle, ceilDiv_zero, ceilDiv,
        show xs.length + n - 1 = xs.length - 1 + n by omega, Nat.add_div_right _ hn,
        Nat.div_eq_of_lt (by omega)]
    · obtain ⟨l, hl⟩ := Nat.exists_eq_add_of_le' hle
      rw [hl, Nat.add_sub_cancel]
      simpa using ceilDiv_add_mul l 1 hn
  rw [blocksOf, blocksOf, hcount, List.length_drop, List.range_succ_eq_map, List.map_cons, List.map_map]
  simp only [Nat.zero_mul, List.drop_zero, List.cons.injEq, true_and]
  refine List.map_congr_left fun g _ => ?_
  rw [Function.comp_apply, List.drop_drop, Nat.succ_mul, Nat.add_comm]

theorem blocksOf_full_append {α : Type} {n : Nat} (hn : 0 < n) {B : List α} (hB : B.length = n) (xs : List α) :
    blocksOf n (B ++ xs) = B :: blocksOf n xs := by
  have hne : B ++ xs ≠ [] := List.ne_nil_of_length_pos (by rw [List.length_append]; omega)
  rw [blocksOf_eq_cons hn hne, List.take_left' hB, List.drop_left' hB]

theorem blocksOf_partial {α : Type} {n : Nat} {B : List α} (h0 : 0 < B.length) (hB : B.length ≤ n) :
    blocksOf n B = [B] := by
  rw [blocksOf_eq_cons (by omega) (List.ne_nil_of_length_pos h0), List.take_of_length_le hB,
    List.drop_of_length_le hB, blocksOf_nil]

/-- Induction over a sequence block by block: full blocks, then a partial one or nothing. -/
theorem block_induction {α : Type} {n : Nat} (hn : 0 < n) {P : List α → Prop} (nil : P [])
    (partialBlock : ∀ B, 0 < B.length → B.length < n → P B)
    (fullBlock : ∀ B xs, B.length = n → P xs → P (B ++ xs)) (xs : List α) : P xs := by
  obtain hlt | hge := Nat.lt_or_ge xs.length n
  · cases xs with
    | nil => exact nil
    | cons x xs => exact partialBlock _ (Nat.succ_pos _) hlt
  · rw [← List.take_append_drop n xs]
    exact fullBlock _ _ (List.length_take_of_le hge)
      (block_induction hn nil partialBlock fullBlock (xs.drop n))
termination_by xs.length
decreasing_by
  rw [List.length_drop]
  omega

/-! How many symbols there are. -/

/-- A full block more is `bsc` symbols more. -/
theorem dataSymbols_blockBytes_add (v : Variant) (n : Nat) :
    dataSymbols (rom v) ((rom v).blockBytes + n) = (rom v).blockSymbols + dataSymbols (rom v) n := by
  obtain ⟨hbps, -, -, -, hblock⟩ := rom_block v
  rw [dataSymbols, show 8 * ((rom v).blockBytes + n) = 8 * n + (rom v).blockSymbols * (rom v).bitsPerSymbol by omega,
    ceilDiv_add_mul _ _ hbps, Nat.add_comm]
  rfl

theorem dataSymbols_blockBytes (v : Variant) : dataSymbols (rom v) (rom v).blockBytes = (rom v).blockSymbols := by
  cases v <;> decide

theorem fillBits_blockBytes_add (v : Variant) (n : Nat) :
    fillBits (rom v) ((rom v).blockBytes + n) = fillBits (rom v) n := by
  obtain ⟨-, -, -, -, hblock⟩ := rom_block v
  rw [fillBits, dataSymbols_blockBytes_add, Nat.add_mul, hblock, fillBits]
  omega

theorem fillBits_blockBytes (v : Variant) : fillBits (rom v) (rom v).blockBytes = 0 := by cases v <;> decide

/-- A partial group has fewer than `bsc` symbols, and some when it has a byte. -/
theorem dataSymbols_partial (v : Variant) : ∀ r < (rom v).blockBytes,
    dataSymbols (rom v) r < (rom v).blockSymbols ∧ (0 < r → 0 < dataSymbols (rom v) r) := by
  cases v <;> decide

/-- The symbols beyond whole blocks are those of the last, partial group. -/
theorem dataSymbols_mod (v : Variant) (n : Nat) :
    dataSymbols (rom v) n % (rom v).blockSymbols = dataSymbols (rom v) (n % (rom v).blockBytes) := by
  obtain ⟨hbps, -, hbbc, -, hblock⟩ := rom_block v
  have hbytes : 8 * n = 8 * (n % (rom v).blockBytes) +
      n / (rom v).blockBytes * (rom v).blockSymbols * (rom v).bitsPerSymbol := by
    have hn := Nat.div_add_mod n (rom v).blockBytes
    rw [Nat.mul_assoc, hblock, ← Nat.mul_assoc, Nat.mul_comm _ (rom v).blockBytes]
    omega
  obtain ⟨hlt, -⟩ := dataSymbols_partial v (n % (rom v).blockBytes) (Nat.mod_lt _ hbbc)
  rw [dataSymbols, hbytes, ceilDiv_add_mul _ _ hbps, Nat.add_mul_mod_self_right]
  exact Nat.mod_eq_of_lt hlt

/-! The symbol values. -/

/-- The symbol values of a byte sequence, group by group (42_encode.md R191, R198). -/
def symbolValues (D : Descriptor) (bytes : List Byte) : List Nat := (blocksOf D.blockBytes bytes).flatMap (pack D)

theorem symbolValues_lt {D : Descriptor} {bytes : List Byte} {k : Nat} (h : k ∈ symbolValues D bytes) :
    k < 2 ^ D.bitsPerSymbol := by
  obtain ⟨B, -, hk⟩ := List.mem_flatMap.1 h
  obtain ⟨j, -, rfl⟩ := List.mem_map.1 hk
  exact Nat.mod_lt _ (Nat.two_pow_pos _)

theorem symbolValues_full_append (v : Variant) {B : List Byte} (hB : B.length = (rom v).blockBytes) (xs : List Byte) :
    symbolValues (rom v) (B ++ xs) = pack (rom v) B ++ symbolValues (rom v) xs := by
  obtain ⟨-, -, hbbc, -, -⟩ := rom_block v
  rw [symbolValues, blocksOf_full_append hbbc hB, List.flatMap_cons, symbolValues]

theorem symbolValues_partial {D : Descriptor} {B : List Byte} (h0 : 0 < B.length) (hB : B.length ≤ D.blockBytes) :
    symbolValues D B = pack D B := by
  rw [symbolValues, blocksOf_partial h0 hB, List.flatMap_cons, List.flatMap_nil, List.append_nil]

theorem symbolValues_length (v : Variant) (bytes : List Byte) :
    (symbolValues (rom v) bytes).length = dataSymbols (rom v) bytes.length := by
  obtain ⟨-, -, hbbc, -, -⟩ := rom_block v
  induction bytes using block_induction hbbc with
  | nil => rw [symbolValues, blocksOf_nil]; exact (ceilDiv_zero _).symm
  | partialBlock B h0 hB => rw [symbolValues_partial h0 (Nat.le_of_lt hB), pack_length]
  | fullBlock B xs hB ih =>
    rw [symbolValues_full_append v hB, List.length_append, List.length_append, pack_length, hB, ih,
      dataSymbols_blockBytes, dataSymbols_blockBytes_add]

/-- The number of the symbol values is that of the bytes, followed by the zero bits of the last symbol. -/
theorem bigEndian_symbolValues (v : Variant) (bytes : List Byte) :
    bigEndian (2 ^ (rom v).bitsPerSymbol) (symbolValues (rom v) bytes) =
      byteNumber bytes * 2 ^ fillBits (rom v) bytes.length := by
  obtain ⟨-, -, hbbc, -, -⟩ := rom_block v
  induction bytes using block_induction hbbc with
  | nil => simp [symbolValues, byteNumber, bigEndian]
  | partialBlock B h0 hB => rw [symbolValues_partial h0 (Nat.le_of_lt hB), bigEndian_pack v (Nat.le_of_lt hB)]
  | fullBlock B xs hB ih =>
    obtain ⟨hbits, -⟩ := dataSymbols_mul v xs.length
    rw [symbolValues_full_append v hB, bigEndian_append, ih, bigEndian_pack v (Nat.le_of_eq hB), symbolValues_length,
      byteNumber_append, List.length_append, hB, fillBits_blockBytes_add, fillBits_blockBytes, ← Nat.pow_mul,
      Nat.mul_comm (rom v).bitsPerSymbol, hbits, Nat.pow_add,
      Nat.pow_zero, Nat.mul_one, Nat.add_mul, Nat.mul_assoc]

/-! The text. -/

/-- How many pad symbols follow the data symbols of `n` bytes (42_encode.md R194, R195). -/
def textPads (D : Descriptor) (n : Nat) : Nat :=
  if D.padPolicy = .required then expectedPad D (dataSymbols D n % D.blockSymbols) else 0

/-- The pad symbols fill up the last block. -/
theorem dataSymbols_add_textPads {v : Variant} (h : (rom v).padPolicy = .required) (n : Nat) :
    (dataSymbols (rom v) n + textPads (rom v) n) % (rom v).blockSymbols = 0 ∧
      textPads (rom v) n < (rom v).blockSymbols := by
  obtain ⟨-, -, hbbc, hle, -⟩ := rom_block v
  have hlt := Nat.mod_lt (dataSymbols (rom v) n) (Nat.lt_of_lt_of_le hbbc hle)
  rw [textPads, if_pos h, expectedPad, Nat.add_mod]
  split
  case isTrue h0 => exact ⟨by rw [h0, Nat.zero_mod]; rfl, by omega⟩
  case isFalse h0 =>
    rw [Nat.mod_eq_of_lt (b := (rom v).blockSymbols) (a := (rom v).blockSymbols - _) (by omega),
      Nat.add_sub_cancel' (Nat.le_of_lt hlt)]
    exact ⟨Nat.mod_self _, by omega⟩

theorem textPads_blockBytes_add (v : Variant) (n : Nat) :
    textPads (rom v) ((rom v).blockBytes + n) = textPads (rom v) n := by
  rw [textPads, dataSymbols_blockBytes_add, Nat.add_mod_left, textPads]

theorem encodedText_eq_cons {D : Descriptor} (hD : 0 < D.blockBytes) {bytes : List Byte} (h : bytes ≠ []) :
    encodedText D bytes = groupText D (bytes.take D.blockBytes) ++ encodedText D (bytes.drop D.blockBytes) := by
  rw [encodedText, blocksOf_eq_cons hD h, List.flatMap_cons, encodedText]

theorem encodedText_partial {D : Descriptor} {B : List Byte} (h0 : 0 < B.length) (hB : B.length ≤ D.blockBytes) :
    encodedText D B = groupText D B := by
  rw [encodedText, blocksOf_partial h0 hB, List.flatMap_cons, List.flatMap_nil, List.append_nil]

/-- The text of a byte sequence is the characters of its symbol values, then the pad symbols. -/
theorem encodedText_eq (v : Variant) (bytes : List Byte) :
    encodedText (rom v) bytes = (symbolValues (rom v) bytes).map (rom v).encAt ++
      List.replicate (textPads (rom v) bytes.length) (rom v).padSymbol := by
  obtain ⟨-, -, hbbc, -, -⟩ := rom_block v
  induction bytes using block_induction hbbc with
  | nil => simp [encodedText, symbolValues, textPads, expectedPad, dataSymbols, ceilDiv_zero]
  | partialBlock B h0 hB =>
    obtain ⟨hlt, hpos⟩ := dataSymbols_partial v _ hB
    rw [symbolValues_partial h0 (Nat.le_of_lt hB), encodedText_partial h0 (Nat.le_of_lt hB), groupText, textPads,
      expectedPad, Nat.mod_eq_of_lt hlt, if_neg (Nat.ne_of_gt (hpos h0))]
    by_cases hpad : (rom v).padPolicy = .required <;> simp [hB, hpad]
  | fullBlock B xs hB ih =>
    rw [symbolValues_full_append v hB, encodedText, blocksOf_full_append hbbc hB, List.flatMap_cons, ← encodedText,
      ih, groupText, if_neg (fun h => by omega), List.append_nil, List.map_append, List.append_assoc,
      List.length_append, hB, textPads_blockBytes_add]

/-! The characters of the text. -/

/-- The character of a symbol value is an entry of the symbol string (R196). -/
theorem encAt_mem_symbolString (v : Variant) {k : Nat} (hk : k < 2 ^ (rom v).bitsPerSymbol) :
    (rom v).encAt k ∈ symbolString v := by
  have hlen : k < (symbolString v).length := symbolString_length v ▸ hk
  rw [Descriptor.encAt, rom_enc, encArray, List.getD_eq_getElem?_getD, List.getElem?_append_left hlen,
    List.getElem?_eq_getElem hlen, Option.getD_some]
  exact List.getElem_mem hlen

/-- Pad symbols are written only for a record that has one (R194, R101 (a)). -/
theorem hasPad_of_textPads_pos {v : Variant} {n : Nat} (h : 0 < textPads (rom v) n) : (rom v).hasPad = true := by
  have hreq : (rom v).padPolicy = .required := by
    refine Classical.byContradiction fun hne => ?_
    rw [textPads, if_neg hne] at h
    exact Nat.lt_irrefl 0 h
  have hiff := Descriptor.hasPad_iff_of_wf (rom_wf v)
  rw [hreq] at hiff
  simpa using hiff

/-- Every unit of the text is a character of the alphabet or the pad symbol (R196). -/
theorem mem_encodedText {v : Variant} {bytes : List Byte} {c : Byte} (h : c ∈ encodedText (rom v) bytes) :
    c ∈ symbolString v ∨ ((rom v).hasPad = true ∧ c = (rom v).padSymbol) := by
  rw [encodedText_eq] at h
  obtain hsym | hpad := List.mem_append.1 h
  · obtain ⟨k, hk, rfl⟩ := List.mem_map.1 hsym
    exact .inl (encAt_mem_symbolString v (symbolValues_lt hk))
  · obtain ⟨hne, rfl⟩ := List.mem_replicate.1 hpad
    exact .inr ⟨hasPad_of_textPads_pos (Nat.pos_of_ne_zero hne), rfl⟩

/-- The text under hex_lower is the text under hex_upper in lower case (R199). -/
theorem encodedText_hexLower (bytes : List Byte) :
    encodedText (rom .hexLower) bytes = (encodedText (rom .hexUpper) bytes).map lowerOf := by
  have hchars : ∀ k < 16, (rom .hexLower).encAt k = lowerOf ((rom .hexUpper).encAt k) := by decide
  rw [encodedText_eq, encodedText_eq, List.map_append, List.map_map,
    show textPads (rom .hexLower) bytes.length = 0 from rfl, show textPads (rom .hexUpper) bytes.length = 0 from rfl]
  exact congrArg (· ++ []) (List.map_congr_left fun k hk => hchars k (symbolValues_lt hk))

/-- The text under base64_url is the text under base64_url_unpadded with pad symbols after it (R199). -/
theorem encodedText_base64Url (bytes : List Byte) :
    encodedText (rom .base64Url) bytes = encodedText (rom .base64UrlUnpadded) bytes ++
      List.replicate (textPads (rom .base64Url) bytes.length) equalsSign := by
  rw [encodedText_eq, encodedText_eq, show textPads (rom .base64UrlUnpadded) bytes.length = 0 from rfl,
    List.replicate_zero, List.append_nil]
  rfl

theorem encodedText_length (v : Variant) (bytes : List Byte) : (encodedText (rom v) bytes).length =
    dataSymbols (rom v) bytes.length + textPads (rom v) bytes.length := by
  rw [encodedText_eq, List.length_append, List.length_map, List.length_replicate, symbolValues_length]

end Sys2Proof.Machine
end

section
/-! PROOFS. What ENC writes (42_encode.md R190 to R199): the loop appends the text of its input group by group, so the
units of OUT are the encoded text, and the statements on them are statements on that text. -/

namespace Sys2Proof.Machine

/-! The units a call has appended. -/

/-- `OUT[0 .. RLEN-1]` (10_state.md R24). -/
def State.outputUnits (s : State) : List Byte := (List.range s.rlen).map s.outUnit

@[simp] theorem State.outputUnits_length (s : State) : s.outputUnits.length = s.rlen := by simp [State.outputUnits]

theorem State.outUnit_of_getElem? {s : State} {j : Nat} {c : Byte} (h : s.outputUnits[j]? = some c) :
    s.outUnit j = c := by
  obtain ⟨hj, hc⟩ := List.getElem?_eq_some_iff.1 h
  simpa [State.outputUnits] using hc

theorem State.outputUnits_getElem? {s : State} {j : Nat} (h : j < s.rlen) : s.outputUnits[j]? = some (s.outUnit j) := by
  simp [State.outputUnits, h]

theorem State.appendAll_outputUnits (s : State) (vs : List Byte) :
    (s.appendAll vs).outputUnits = s.outputUnits ++ vs := by
  have hrlen := s.appendAll_rlen vs
  have hout : (s.appendAll vs).outAt = s.outAt := by rw [s.appendAll_eq]
  refine List.ext_getElem (by simp [hrlen]) fun j hj _ => ?_
  rw [State.outputUnits_length] at hj
  simp only [State.outputUnits, List.getElem_map, List.getElem_range, State.outUnit, hout]
  have hread := s.appendAll_read vs (s.outAt + j)
  obtain hlt | hge := Nat.lt_or_ge j s.rlen
  · rw [if_neg (by omega)] at hread
    rw [List.getElem_append_left (by simpa using hlt), State.unitAt_congr hread]
    simp [State.outUnit]
  · rw [if_pos (by omega), show s.outAt + j - (s.outAt + s.rlen) = j - s.rlen by omega,
      List.getElem?_eq_getElem (by omega)] at hread
    rw [List.getElem_append_right (by simpa using hge), State.unitAt_of_read hread]
    simp

/-! The encoder's loop. -/

/-- The group at IDX is the first block of the input still to be read (R191, R197). -/
theorem groupBytes_eq (D : Descriptor) (s : State) :
    (List.range (groupLength D s)).map (fun j => s.inUnit (s.idx + j)) =
      (s.inputUnits.drop s.idx).take D.blockBytes := by
  refine List.ext_getElem (by simp [groupLength, State.inputUnits_length]) fun j _ _ => ?_
  simp [State.inputUnits]

/-- After the group at IDX comes the rest of the input (R197). -/
theorem inputUnits_drop_group (D : Descriptor) (s : State) :
    s.inputUnits.drop (s.idx + groupLength D s) = (s.inputUnits.drop s.idx).drop D.blockBytes := by
  rw [List.drop_drop]
  obtain hle | hgt := Nat.le_total D.blockBytes (s.operand - s.idx)
  · rw [groupLength, Nat.min_eq_left hle]
  · have hlen := s.inputUnits_length
    rw [groupLength, Nat.min_eq_right hgt, List.drop_of_length_le (by omega), List.drop_of_length_le (by omega)]

/-- The units of a group in GRP are its text: the fields of GRP are `pack`. -/
theorem groupSymbols_topAligned (v : Variant) {B : List Byte} (hB : B.length ≤ (rom v).blockBytes) :
    groupSymbols (rom v) (topAligned B) B.length = groupText (rom v) B := by
  simp only [groupSymbols, groupText, ← groupRegisterFieldsArePack v B hB, List.map_map, Function.comp_def,
    Descriptor.padded, beq_iff_eq]

theorem emitGroup_loadGroup_appendsOnly (D : Descriptor) (s : State) :
    AppendsOnly s (emitGroup D (loadGroup D s)) :=
  (loadGroup D s).appendAll_appendsOnly _

/-- A turn of the loop appends the text of the group at IDX. -/
theorem emitGroup_loadGroup_outputUnits (v : Variant) (s : State) :
    (emitGroup (rom v) (loadGroup (rom v) s)).outputUnits =
      s.outputUnits ++ groupText (rom v) ((s.inputUnits.drop s.idx).take (rom v).blockBytes) := by
  have hB : ((s.inputUnits.drop s.idx).take (rom v).blockBytes).length = groupLength (rom v) s := by
    rw [← groupBytes_eq, List.length_map, List.length_range]
  change ((loadGroup (rom v) s).appendAll _).outputUnits = _
  rw [State.appendAll_outputUnits, loadGroup_grpN_toNat, loadGroup_grp, groupBytes_eq, ← hB,
    groupSymbols_topAligned v (List.length_take_le _ _)]
  rfl

/-- While the size of the input still to come fits a frame that shares no unit with the input, the loop appends the
text of that input (R197). -/
theorem encodeGroups_outputUnits (v : Variant) {n frame : Nat} {s : State} (hfree : ¬ s.sharesUnits frame)
    (hframe : s.rlen + encodedSize (rom v) (s.operand - s.idx) ≤ frame) (hn : s.operand - s.idx ≤ n) :
    (encodeGroups (rom v) n s).outputUnits = s.outputUnits ++ encodedText (rom v) (s.inputUnits.drop s.idx) := by
  induction n generalizing s with
  | zero =>
    rw [State.inputUnits_drop_of_le (by omega)]
    simp [encodedText, encodeGroups]
  | succ n ih =>
    simp only [encodeGroups]
    split
    case isFalse hidx =>
      rw [State.inputUnits_drop_of_le (by omega)]
      simp [encodedText]
    case isTrue hidx =>
      obtain ⟨-, -, hbbc, -, -⟩ := rom_block v
      have hrlen := emitGroup_loadGroup_rlen v hidx
      have hidx' := emitGroup_loadGroup_idx (rom v) s
      have hout := emitGroup_loadGroup_outputUnits v s
      have happ := emitGroup_loadGroup_appendsOnly (rom v) s
      have hkeep : EngineMoves s (emitGroup (rom v) (loadGroup (rom v) s)) := by rw [emitGroup_eq]; rfl
      generalize emitGroup (rom v) (loadGroup (rom v) s) = t at *
      have hlen : t.len = s.len := by rw [hkeep]
      have hin : t.inAt = s.inAt := by rw [hkeep]
      have hop : t.operand = s.operand := hlen
      have hgroup : 0 < groupLength (rom v) s := Nat.lt_min.2 ⟨hbbc, Nat.sub_pos_of_lt hidx⟩
      have hsize : encodedSize (rom v) (s.operand - s.idx) =
          encodedSize (rom v) (groupLength (rom v) s) + encodedSize (rom v) (t.operand - t.idx) := by
        rw [hop, hidx', Nat.sub_add_eq]
        exact encodedSize_eq_firstGroup_add v _
      have hinput : t.inputUnits = s.inputUnits := happ.inputUnits_eq hin hlen hfree (by omega)
      have hne : s.inputUnits.drop s.idx ≠ [] := by rw [State.inputUnits_drop_idx hidx]; simp
      rw [ih (by rw [hkeep]; exact hfree) (by omega) (by omega), hout, hinput, hidx', inputUnits_drop_group,
        List.append_assoc, ← encodedText_eq_cons hbbc hne]

/-! The commands. -/

/-- What an `ENC` leaves in OUT (R190, R199). -/
theorem exec_enc_next {i : Instr} {s t : State} (hi : i ∈ encCommands) (h : exec i s = .next t) :
    t.ended .none ∧ t.rlen = encodedSize i.record s.operand ∧
      t.outputUnits = encodedText i.record s.inputUnits := by
  have hprem : s.premises i := premises_iff.1 (exec_next h).1
  rw [State.premises, op_of_mem_encCommands hi] at hprem
  obtain ⟨-, -, hfree⟩ := hprem
  rw [exec_eq_callOf, op_of_mem_encCommands hi] at h
  obtain ⟨-, rfl⟩ := encCall_next h
  have hsize : 0 + encodedSize i.record s.operand ≤ encodedSize i.record s.operand := Nat.le_of_eq (Nat.zero_add _)
  exact ⟨State.finish_ended _, encodeGroups_startPhase_rlen i.variant s,
    encodeGroups_outputUnits (s := s.startPhase .emit) i.variant hfree hsize (Nat.le_refl _)⟩

/-- Settles O22: the premises are those of the call, and the loop from the start values appends the whole text. -/
theorem encWritesTheEncodedText : Obligations.EncWritesTheEncodedText := by
  intro i hi s hprem
  have hpremises : s.premises i := by rw [State.premises, op_of_mem_encCommands hi]; exact hprem
  obtain ⟨t, ht⟩ := exec_of_premises hpremises
  obtain ⟨hended, hrlen, hout⟩ := exec_enc_next hi ht
  refine ⟨t, ht, hended, hrlen, ?_, fun j hj => ?_⟩
  · rw [← hout, State.outputUnits_length, hrlen]
  · rw [← hout, State.outputUnits_getElem? (hrlen ▸ hj)]

theorem outUnit_mem_encodedText {i : Instr} {s t : State} (hi : i ∈ encCommands) (h : exec i s = .next t) {j : Nat}
    (hj : j < t.rlen) : t.outUnit j ∈ encodedText i.record s.inputUnits := by
  obtain ⟨-, -, hout⟩ := exec_enc_next hi h
  exact hout ▸ List.mem_of_getElem? (State.outputUnits_getElem? hj)

/-- Settles O24: the units are those of the encoded text. -/
theorem encoderEmitsAlphabetOrPad : Obligations.EncoderEmitsAlphabetOrPad := by
  intro i hi s t h
  obtain ⟨-, hrlen, -⟩ := exec_enc_next hi h
  exact ⟨symbolString_length i.variant, fun j hj => mem_encodedText (outUnit_mem_encodedText hi h (hrlen ▸ hj))⟩

theorem State.inputUnits_congr {s u : State} (hlen : u.len = s.len) (h : ∀ k < s.operand, u.inUnit k = s.inUnit k) :
    u.inputUnits = s.inputUnits := by
  rw [State.inputUnits, State.operand, hlen]
  exact List.map_congr_left fun k hk => h k (List.mem_range.1 hk)

/-- Settles O25: both clauses on the machine are the clauses on the encoded texts of the common input. -/
theorem encoderVariantsDifferInCaseOrPadsOnly : Obligations.EncoderVariantsDifferInCaseOrPadsOnly := by
  have hpads : ∀ bytes : List Byte, textPads (rom .base64Url) bytes.length < 4 ∧
      ((encodedText (rom .base64UrlUnpadded) bytes).length + textPads (rom .base64Url) bytes.length) % 4 = 0 := by
    intro bytes
    obtain ⟨hfull, hlt⟩ := dataSymbols_add_textPads (v := .base64Url) rfl bytes.length
    exact ⟨hlt, (encodedText_length .base64UrlUnpadded bytes).symm ▸ hfull⟩
  refine ⟨fun s u t w hlen hunits => ⟨fun ht hw => ?hex, fun ht hw => ?base64⟩, fun bytes =>
    ⟨encodedText_hexLower bytes, _, (hpads bytes).1, (hpads bytes).2, encodedText_base64Url bytes⟩⟩
  all_goals
    obtain ⟨-, -, htout⟩ := exec_enc_next (by decide) ht
    obtain ⟨-, -, hwout⟩ := exec_enc_next (by decide) hw
    rw [State.inputUnits_congr hlen hunits] at hwout
  case hex =>
    have hout : w.outputUnits = t.outputUnits.map lowerOf := by
      rw [hwout, htout]
      exact encodedText_hexLower _
    have hrlen : w.rlen = t.rlen := by simpa using congrArg List.length hout
    refine ⟨hrlen, fun j hj => State.outUnit_of_getElem? ?_⟩
    rw [hout, List.getElem?_map, State.outputUnits_getElem? hj, Option.map_some]
  case base64 =>
    obtain ⟨hlt, hmod⟩ := hpads s.inputUnits
    have hout : w.outputUnits = t.outputUnits ++
        List.replicate (textPads (rom .base64Url) s.inputUnits.length) equalsSign := by
      rw [hwout, htout]
      exact encodedText_base64Url _
    rw [show encodedText (rom .base64UrlUnpadded) s.inputUnits = t.outputUnits from htout.symm,
      State.outputUnits_length] at hmod
    have hrlen : w.rlen = t.rlen + textPads (rom .base64Url) s.inputUnits.length := by
      simpa using congrArg List.length hout
    refine ⟨by omega, by omega, hrlen ▸ hmod, fun j hj => State.outUnit_of_getElem? ?_,
      fun j hj hle => State.outUnit_of_getElem? ?_⟩
    · rw [hout, List.getElem?_append_left (by simpa using hj), State.outputUnits_getElem? hj]
    · rw [hout, List.getElem?_append_right (by simpa using hle), State.outputUnits_length,
        List.getElem?_replicate_of_lt (by omega)]

end Sys2Proof.Machine
end

section
/-! PROOFS. A decode whose text passes the checks (43_decode.md R213 to R224): the scan and what it finds, and the
emission, which writes the whole bytes of the number of the text's data values. -/

namespace Sys2Proof.Machine

/-! The scan. -/

/-- Whether a data character comes after a pad character, in a text of which a pad may have been `seen` before. -/
def dataAfterPadFrom (D : Descriptor) (seen : Bool) (text : List Byte) : Bool :=
  if seen then text.any fun c => (classify D c).isData else hasDataAfterPad D text

@[simp] theorem dataAfterPadFrom_nil (D : Descriptor) (seen : Bool) : dataAfterPadFrom D seen [] = false := by
  cases seen <;> rfl

theorem dataAfterPadFrom_cons (D : Descriptor) (seen : Bool) (c : Byte) (text : List Byte) :
    dataAfterPadFrom D seen (c :: text) = (seen && (classify D c).isData ||
      dataAfterPadFrom D (seen || classify D c == .pad) text) := by
  cases seen with
  | true => simp [dataAfterPadFrom]
  | false =>
    by_cases hc : classify D c = .pad <;> simp [dataAfterPadFrom, hasDataAfterPad, hc, CharClass.isData]

theorem scanUnit_isSome {D : Descriptor} {s : State} (h : classify D (s.inUnit s.idx) ≠ .invalid) :
    ∃ t, scanUnit D s = some t := by
  unfold scanUnit State.classAtIdx
  cases hc : classify D (s.inUnit s.idx)
  case invalid => exact absurd hc h
  all_goals exact ⟨_, rfl⟩

/-- The scan goes through a text with no invalid character (R215). -/
theorem scanUnits_isSome {D : Descriptor} {n : Nat} {s : State}
    (h : hasInvalid D (s.inputUnits.drop s.idx) = false) : ∃ t, scanUnits D n s = some t := by
  induction n generalizing s with
  | zero => exact ⟨s, rfl⟩
  | succ n ih =>
    simp only [scanUnits]
    split
    case isFalse => exact ⟨s, rfl⟩
    case isTrue hidx =>
      rw [State.inputUnits_drop_idx hidx] at h
      simp only [hasInvalid, List.singleton_append, List.any_cons, Bool.or_eq_false_iff, beq_eq_false_iff_ne] at h
      obtain ⟨hc, hrest⟩ := h
      obtain ⟨u, hu⟩ := scanUnit_isSome hc
      obtain ⟨huidx, -⟩ := scanUnit_counts hu
      have huin : u.inputUnits = s.inputUnits := by rw [scanUnit_eq hu]; rfl
      obtain ⟨t, ht⟩ := ih (s := u) (by rw [huin, huidx]; exact hrest)
      exact ⟨t, by rw [hu]; exact ht⟩

/-- Scanning one unit sets the flags by its class (R214). -/
theorem scanUnit_flags {D : Descriptor} {s t : State} (h : scanUnit D s = some t) :
    t.padSeen = (s.padSeen || classify D (s.inUnit s.idx) == .pad) ∧
    t.dataAfterPad = (s.dataAfterPad || s.padSeen && (classify D (s.inUnit s.idx)).isData) := by
  unfold scanUnit State.classAtIdx at h
  cases hc : classify D (s.inUnit s.idx) <;> rw [hc] at h
  case invalid => cases h
  all_goals
    cases h
    simp [CharClass.isData]

/-- The scan notes a data character after a pad among the characters still to be read (R214, R216). -/
theorem scanUnits_dataAfterPad {D : Descriptor} {n : Nat} {s t : State} (h : scanUnits D n s = some t)
    (hn : s.operand - s.idx ≤ n) :
    t.dataAfterPad = (s.dataAfterPad || dataAfterPadFrom D s.padSeen (s.inputUnits.drop s.idx)) := by
  induction n generalizing s with
  | zero =>
    cases h
    rw [State.inputUnits_drop_of_le (by omega), dataAfterPadFrom_nil, Bool.or_false]
  | succ n ih =>
    simp only [scanUnits] at h
    split at h
    case isFalse hidx =>
      cases h
      rw [State.inputUnits_drop_of_le (by omega), dataAfterPadFrom_nil, Bool.or_false]
    case isTrue hidx =>
      obtain ⟨u, hu, ht⟩ := Option.bind_eq_some_iff.1 h
      obtain ⟨huidx, -⟩ := scanUnit_counts hu
      obtain ⟨huseen, huafter⟩ := scanUnit_flags hu
      have huop : u.operand = s.operand := by rw [scanUnit_eq hu]; rfl
      have huin : u.inputUnits = s.inputUnits := by rw [scanUnit_eq hu]; rfl
      rw [ih ht (by omega), huin, huidx, huseen, huafter, State.inputUnits_drop_idx hidx, List.singleton_append,
        dataAfterPadFrom_cons, Bool.or_assoc]

/-- The checks after the scan of a whole text are the checks on what the text holds (R216 to R220). -/
theorem checkErr_of_scan {D : Descriptor} {s u : State} (h : scanUnits D s.operand (s.startPhase .scan) = some u) :
    u.checkErr D = checkCounts D (hasDataAfterPad D s.inputUnits) (dataValues D s.inputUnits).length
      (padCountOf D s.inputUnits) := by
  obtain ⟨hdata, hpad⟩ := scanUnits_counts h (Nat.sub_le _ _)
  rw [State.checkErr, scanUnits_dataAfterPad h (Nat.sub_le _ _), hdata, hpad]
  change checkCounts D _ (0 + _) (0 + _) = _
  rw [Nat.zero_add, Nat.zero_add]
  rfl

/-! The emission. -/

/-- The bits pending in ACC, fewer than a byte (10_state.md R28). -/
def State.pendingLegal (s : State) : Prop := s.accBits.toNat ≤ 7 ∧ s.acc.toNat < 2 ^ s.accBits.toNat

/-- The number of the code bits so far: the bytes written, then the bits pending in ACC. -/
def State.writtenNumber (s : State) : Nat := byteNumber s.outputUnits * 2 ^ s.accBits.toNat + s.acc.toNat

section
variable {D : Descriptor} {v : Byte}

/-- The symbol value enters ACC below the pending bits, and ACC has room for it (R223). -/
theorem shiftIn_toNat {acc : BitVec 13} {n : Nat} (hn : n ≤ 7) (hacc : acc.toNat < 2 ^ n)
    (hbps : D.bitsPerSymbol ≤ 6) (hv : v.toNat < 2 ^ D.bitsPerSymbol) :
    ((acc <<< D.bitsPerSymbol) ||| v.setWidth 13).toNat = acc.toNat * 2 ^ D.bitsPerSymbol + v.toNat ∧
      acc.toNat * 2 ^ D.bitsPerSymbol + v.toNat < 2 ^ (n + D.bitsPerSymbol) := by
  have hlt : acc.toNat * 2 ^ D.bitsPerSymbol + v.toNat < 2 ^ (n + D.bitsPerSymbol) := by
    rw [Nat.pow_add]
    calc acc.toNat * 2 ^ D.bitsPerSymbol + v.toNat < (acc.toNat + 1) * 2 ^ D.bitsPerSymbol := by
          rw [Nat.add_mul]; omega
      _ ≤ 2 ^ n * 2 ^ D.bitsPerSymbol := Nat.mul_le_mul_right _ hacc
  have hroom : 2 ^ (n + D.bitsPerSymbol) ≤ 2 ^ 13 := Nat.pow_le_pow_right (by decide) (by omega)
  refine ⟨?_, hlt⟩
  rw [BitVec.toNat_or, BitVec.toNat_shiftLeft, BitVec.toNat_setWidth_of_le (by decide), Nat.shiftLeft_eq,
    Nat.mod_eq_of_lt (by omega), Nat.mul_comm, ← Nat.two_pow_add_eq_or_of_lt hv]

/-- Absorbing a symbol value loses no bit: what was pending and the value are the byte emitted, if any, and what is
pending then (R223). -/
theorem absorbValue_number {acc : BitVec 13} {accBits : BitVec 4} (hbits : accBits.toNat ≤ 7)
    (hacc : acc.toNat < 2 ^ accBits.toNat) (hbps : D.bitsPerSymbol ≤ 6) (hv : v.toNat < 2 ^ D.bitsPerSymbol)
    {r : BitVec 13 × BitVec 4 × Option Byte} (hr : r = absorbValue D v acc accBits) :
    r.2.1.toNat ≤ 7 ∧ r.1.toNat < 2 ^ r.2.1.toNat ∧
    8 * r.2.2.toList.length + r.2.1.toNat = accBits.toNat + D.bitsPerSymbol ∧
    byteNumber r.2.2.toList * 2 ^ r.2.1.toNat + r.1.toNat = acc.toNat * 2 ^ D.bitsPerSymbol + v.toNat := by
  obtain ⟨hwide, hlt⟩ := shiftIn_toNat hbits hacc hbps hv
  simp only [absorbValue] at hr
  generalize hW : (acc <<< D.bitsPerSymbol) ||| v.setWidth 13 = W at hr hwide
  rw [← hwide] at hlt ⊢
  split at hr
  case isFalse hlow =>
    have hn : (BitVec.ofNat 4 (accBits.toNat + D.bitsPerSymbol)).toNat = accBits.toNat + D.bitsPerSymbol :=
      Nat.mod_eq_of_lt (by omega)
    subst hr
    refine ⟨by rw [hn]; omega, by rwa [hn], by rw [hn]; exact Nat.zero_add _, ?_⟩
    simp [byteNumber, bigEndian]
  case isTrue hhigh =>
    obtain ⟨m, hm⟩ := Nat.exists_eq_add_of_le' hhigh
    rw [hm, Nat.add_sub_cancel] at hr
    rw [hm, Nat.pow_add] at hlt
    have hn : (BitVec.ofNat 4 m).toNat = m := Nat.mod_eq_of_lt (by omega)
    have hbyte : (W.extractLsb' m 8).toNat = W.toNat / 2 ^ m := by
      rw [BitVec.extractLsb'_toNat, Nat.shiftRight_eq_div_pow]
      exact Nat.mod_eq_of_lt (Nat.div_lt_of_lt_mul hlt)
    have hrest : ((W.extractLsb' 0 m).setWidth 13).toNat = W.toNat % 2 ^ m := by
      rw [BitVec.toNat_setWidth_of_le (by omega), BitVec.extractLsb'_toNat, Nat.shiftRight_zero]
    subst hr
    refine ⟨by rw [hn]; omega, by rw [hn, hrest]; exact Nat.mod_lt _ (Nat.two_pow_pos _), ?_, ?_⟩
    · rw [hn, hm]
      exact Nat.add_comm _ _
    · simp only [Option.toList_some, byteNumber, List.map_singleton, bigEndian, List.foldl_cons, List.foldl_nil,
        Nat.mul_zero, Nat.zero_add, hn, hbyte, hrest]
      exact Nat.div_add_mod' _ _

/-- Absorbing appends the byte emitted, if any. -/
theorem State.absorb_outputUnits (D : Descriptor) (s : State) (v : Byte) :
    (s.absorb D v).outputUnits = s.outputUnits ++ (absorbValue D v s.acc s.accBits).2.2.toList := by
  rw [← State.appendAll_outputUnits]
  simp only [State.absorb]
  cases (absorbValue D v s.acc s.accBits).2.2 <;> rfl

/-- Absorbing a symbol value puts it below the code bits so far (R223). -/
theorem State.absorb_writtenNumber {s : State} (hs : s.pendingLegal) (hbps : D.bitsPerSymbol ≤ 6)
    (hv : v.toNat < 2 ^ D.bitsPerSymbol) : (s.absorb D v).pendingLegal ∧
      (s.absorb D v).writtenNumber = s.writtenNumber * 2 ^ D.bitsPerSymbol + v.toNat := by
  obtain ⟨hbits, hacc⟩ := hs
  obtain ⟨hbits', hacc', hcount, hnumber⟩ := absorbValue_number hbits hacc hbps hv rfl
  refine ⟨⟨hbits', hacc'⟩, ?_⟩
  rw [State.writtenNumber, State.absorb_outputUnits, byteNumber_append, State.writtenNumber]
  change (_ + _) * 2 ^ (absorbValue D v s.acc s.accBits).2.1.toNat + (absorbValue D v s.acc s.accBits).1.toNat = _
  rw [Nat.add_mul, Nat.add_assoc, hnumber, Nat.mul_assoc, ← Nat.pow_add, hcount, Nat.pow_add,
    Nat.add_mul, Nat.mul_assoc, Nat.add_assoc]

end

theorem rom_bitsPerSymbol_le (v : Variant) : (rom v).bitsPerSymbol ≤ 6 := by cases v <;> decide

/-- The emission of one unit puts its data value, if it has one, below the code bits so far (R222). -/
theorem emitUnit_writtenNumber (v : Variant) {s : State} (hs : s.pendingLegal) :
    (emitUnit (rom v) s).pendingLegal ∧ (emitUnit (rom v) s).writtenNumber =
      s.writtenNumber * (2 ^ (rom v).bitsPerSymbol) ^ (dataValues (rom v) [s.inUnit s.idx]).length +
        bigEndian (2 ^ (rom v).bitsPerSymbol) (dataValues (rom v) [s.inUnit s.idx]) := by
  unfold emitUnit State.classAtIdx
  cases hc : classify (rom v) (s.inUnit s.idx)
  case data x =>
    obtain ⟨rfl, hvalid, -⟩ := classify_data hc
    obtain ⟨hlegal, hnumber⟩ := State.absorb_writtenNumber hs (rom_bitsPerSymbol_le v) (decAt_lt v _ hvalid)
    refine ⟨hlegal, hnumber.trans ?_⟩
    simp [dataValues, hc, CharClass.value?, bigEndian]
  all_goals
    refine ⟨hs, ?_⟩
    simp only [dataValues, hc, CharClass.value?, bigEndian, List.filterMap_cons, List.filterMap_nil, List.foldl_nil,
      List.length_nil, Nat.pow_zero, Nat.mul_one, Nat.add_zero]
    rfl

/-- While the code bits fit a frame that shares no unit with the input, the emission puts the data values still to be
read below the code bits so far, and all code bits are in OUT or pending (R222, R224). -/
theorem emitUnits_writtenNumber (v : Variant) {n frame : Nat} {s : State} (hs : s.pendingLegal)
    (hfree : ¬ s.sharesUnits frame) (hframe : s.codeBits (rom v) < 8 * (frame + 1)) (hn : s.operand - s.idx ≤ n) :
    (emitUnits (rom v) n s).pendingLegal ∧
    8 * (emitUnits (rom v) n s).rlen + (emitUnits (rom v) n s).accBits.toNat = s.codeBits (rom v) ∧
    (emitUnits (rom v) n s).writtenNumber =
      s.writtenNumber * (2 ^ (rom v).bitsPerSymbol) ^ (dataValues (rom v) (s.inputUnits.drop s.idx)).length +
        bigEndian (2 ^ (rom v).bitsPerSymbol) (dataValues (rom v) (s.inputUnits.drop s.idx)) := by
  induction n generalizing s with
  | zero =>
    rw [State.codeBits, State.inputUnits_drop_of_le (by omega)]
    exact ⟨hs, rfl, (Nat.mul_one _).symm⟩
  | succ n ih =>
    simp only [emitUnits]
    split
    case isFalse hidx =>
      rw [State.codeBits, State.inputUnits_drop_of_le (by omega)]
      exact ⟨hs, rfl, (Nat.mul_one _).symm⟩
    case isTrue hidx =>
      obtain ⟨hlegal, hnumber⟩ := emitUnit_writtenNumber v hs
      have hbits := emitUnit_codeBits hidx hfree hframe
      have hidx' := emitUnit_idx (rom v) s
      have hlen := emitUnit_len (rom v) s
      have happ := emitUnit_appendsOnly (rom v) s
      have hin : (emitUnit (rom v) s).inAt = s.inAt := by rw [emitUnit_eq]
      have hfree' : ¬ (emitUnit (rom v) s).sharesUnits frame := by rw [emitUnit_eq]; exact hfree
      generalize emitUnit (rom v) s = t at *
      have hop : t.operand = s.operand := hlen
      have hinput : t.inputUnits = s.inputUnits :=
        happ.inputUnits_eq hin hlen hfree (State.rlen_le_of_codeBits_lt (hbits ▸ hframe))
      obtain ⟨hend, hcount, hwritten⟩ := ih hlegal hfree' (hbits ▸ hframe) (by omega)
      refine ⟨hend, hcount.trans hbits, ?_⟩
      rw [hwritten, hnumber, hinput, hidx', State.inputUnits_drop_idx hidx, dataValues_append, bigEndian_append,
        List.length_append, Nat.pow_add, Nat.add_mul, Nat.mul_assoc, Nat.add_assoc]

/-! The call. -/

/-- After a scan whose text passed the checks, the emission writes the whole bytes of the number of the text's data
values; the bits left over are discarded (R222 to R224). -/
theorem emission_of_accepted (v : Variant) {s u : State} {bits : Nat}
    (hscan : scanUnits (rom v) s.operand (s.startPhase .scan) = some u) (hcheck : u.checkErr (rom v) = .none)
    (hfree : ¬ s.sharesUnits (decodedMaxSize (rom v) s.operand))
    (hbits : bits = (rom v).bitsPerSymbol * (dataValues (rom v) s.inputUnits).length) :
    (emitUnits (rom v) s.operand u.beginEmit).rlen = bits / 8 ∧
      byteNumber (emitUnits (rom v) s.operand u.beginEmit).outputUnits =
        bigEndian (2 ^ (rom v).bitsPerSymbol) (dataValues (rom v) s.inputUnits) / 2 ^ (bits % 8) := by
  have hop : u.operand = s.operand := by rw [scanUnits_eq hscan]; rfl
  have hfree' : ¬ u.beginEmit.sharesUnits (decodedMaxSize (rom v) s.operand) := by
    rw [scanUnits_eq hscan]
    exact hfree
  have hvalues : u.beginEmit.inputUnits.drop u.beginEmit.idx = s.inputUnits := by rw [scanUnits_eq hscan]; rfl
  have hcode : u.beginEmit.codeBits (rom v) = bits := by
    rw [State.codeBits, hvalues, hbits]
    exact Nat.zero_add _
  obtain ⟨⟨hseven, hacc⟩, hcount, hnumber⟩ := emitUnits_writtenNumber v (n := s.operand) (s := u.beginEmit)
    ⟨Nat.zero_le _, Nat.one_pos⟩ hfree' (beginEmit_codeBits_lt v hscan hcheck) (Nat.le_of_eq hop)
  rw [hvalues, show u.beginEmit.writtenNumber = 0 from rfl, Nat.zero_mul, Nat.zero_add] at hnumber
  rw [hcode] at hcount
  generalize emitUnits (rom v) s.operand u.beginEmit = t at *
  have hpending : bits % 8 = t.accBits.toNat := by omega
  refine ⟨by omega, ?_⟩
  rw [← hnumber, State.writtenNumber, hpending, Nat.add_comm, Nat.add_mul_div_right _ _ (Nat.two_pow_pos _),
    Nat.div_eq_of_lt hacc, Nat.zero_add]

/-- A `DEC` whose text passes the scan and the checks ends with `none` and what the emission writes. -/
theorem exec_dec_of_accepted {i : Instr} {s : State} (hi : i ∈ decCommands) (hprem : s.decPremises i.record)
    (hvalid : hasInvalid i.record s.inputUnits = false)
    (hcheck : checkCounts i.record (hasDataAfterPad i.record s.inputUnits) (dataValues i.record s.inputUnits).length
      (padCountOf i.record s.inputUnits) = .none)
    {bits : Nat} (hbits : bits = i.record.bitsPerSymbol * (dataValues i.record s.inputUnits).length) :
    ∃ t, exec i s = .next t ∧ t.ended .none ∧ t.rlen = bits / 8 ∧
      byteNumber t.outputUnits =
        bigEndian (2 ^ i.record.bitsPerSymbol) (dataValues i.record s.inputUnits) / 2 ^ (bits % 8) := by
  have hpremises : s.premises i := by rw [State.premises, op_of_mem_decCommands hi]; exact hprem
  obtain ⟨t, ht⟩ := exec_of_premises hpremises
  obtain ⟨-, hfree⟩ := hprem
  refine ⟨t, ht, ?_⟩
  rw [exec_eq_callOf, op_of_mem_decCommands hi] at ht
  obtain ⟨u', hu'⟩ := scanUnits_isSome (n := s.operand) (s := s.startPhase .scan) hvalid
  obtain ⟨-, ⟨hscan, -⟩ | ⟨u, hscan, ⟨hne, -⟩ | ⟨hnone, rfl⟩⟩⟩ := decCall_next ht
  · cases hu'.symm.trans hscan
  · exact absurd ((checkErr_of_scan hscan).trans hcheck) hne
  · exact ⟨State.finish_ended _, emission_of_accepted i.variant hscan hnone hfree hbits⟩

end Sys2Proof.Machine
end

section
/-! PROOFS. The round trip (42_encode.md R199): the decoder reads the symbol values out of the encoded text, the checks
pass it, and the whole bytes of their number are the bytes encoded. -/

namespace Sys2Proof.Machine

/-! The classes of the characters of the text. -/

/-- The character of a symbol value is a data character of that value (R101 (c)). -/
theorem classify_encAt (v : Variant) {k : Nat} (hk : k < 2 ^ (rom v).bitsPerSymbol) :
    classify (rom v) ((rom v).encAt k) = .data ((rom v).decAt ((rom v).encAt k)) ∧
      ((rom v).decAt ((rom v).encAt k)).toNat = k := by
  have hvalue := Descriptor.decAt_encAt_of_wf (rom_wf v) hk
  have hsmall : 2 ^ (rom v).bitsPerSymbol ≤ 2 ^ 6 := Nat.pow_le_pow_right (by decide) (rom_bitsPerSymbol_le v)
  have hdata : (rom v).decAt ((rom v).encAt k) ≠ invalidEntry := by
    intro h
    rw [h] at hvalue
    exact absurd hvalue (by change 255 ≠ k; omega)
  obtain ⟨-, hign, hpad⟩ := Descriptor.disjoint_of_wf (rom_wf v) ((rom v).encAt k)
  refine ⟨?_, hvalue⟩
  rw [classify, if_neg (fun h => hign ⟨h, hdata⟩), if_neg ?notPad, if_pos (bne_iff_ne.2 hdata)]
  simp only [Bool.and_eq_true, beq_iff_eq]
  exact fun ⟨hhas, hsym⟩ => hpad ⟨hhas, hsym, hdata⟩

theorem classify_padSymbol {v : Variant} (h : (rom v).hasPad = true) :
    classify (rom v) (rom v).padSymbol = .pad := by
  obtain ⟨hign, -⟩ := Descriptor.disjoint_of_wf (rom_wf v) (rom v).padSymbol
  rw [classify, if_neg (fun hi => hign ⟨hi, h, rfl⟩), if_pos (by simp [h])]

/-- The units of a text before its pad symbols are data characters. -/
theorem classify_of_mem_symbols {v : Variant} {bytes : List Byte} {c : Byte}
    (h : c ∈ (symbolValues (rom v) bytes).map (rom v).encAt) : (classify (rom v) c).isData = true := by
  obtain ⟨k, hk, rfl⟩ := List.mem_map.1 h
  rw [(classify_encAt v (symbolValues_lt hk)).1]
  rfl

theorem classify_of_mem_pads {v : Variant} {n : Nat} {c : Byte}
    (h : c ∈ List.replicate (textPads (rom v) n) (rom v).padSymbol) : classify (rom v) c = .pad := by
  obtain ⟨hne, rfl⟩ := List.mem_replicate.1 h
  exact classify_padSymbol (hasPad_of_textPads_pos (Nat.pos_of_ne_zero hne))

theorem CharClass.ne_pad_of_isData {k : CharClass} (h : k.isData = true) : k ≠ .pad := by
  rintro rfl
  cases h

theorem CharClass.ne_invalid_of_isData {k : CharClass} (h : k.isData = true) : k ≠ .invalid := by
  rintro rfl
  cases h

/-! What the decoder finds in the text. -/

/-- Reading the characters of symbol values gives the symbol values. -/
theorem dataValues_map_encAt (v : Variant) {ks : List Nat} (h : ∀ k ∈ ks, k < 2 ^ (rom v).bitsPerSymbol) :
    dataValues (rom v) (ks.map (rom v).encAt) = ks := by
  induction ks with
  | nil => rfl
  | cons k ks ih =>
    obtain ⟨hk, hks⟩ := List.forall_mem_cons.1 h
    obtain ⟨hclass, hvalue⟩ := classify_encAt v hk
    have hhead : (classify (rom v) ((rom v).encAt k)).value? = some k := by rw [hclass, CharClass.value?, hvalue]
    simp only [List.map_cons, dataValues, List.filterMap_cons, hhead]
    exact congrArg (k :: ·) (ih hks)

theorem dataValues_encodedText (v : Variant) (bytes : List Byte) :
    dataValues (rom v) (encodedText (rom v) bytes) = symbolValues (rom v) bytes := by
  have hpads : dataValues (rom v) (List.replicate (textPads (rom v) bytes.length) (rom v).padSymbol) = [] :=
    List.filterMap_eq_nil_iff.2 fun c hc => by rw [classify_of_mem_pads hc]; rfl
  rw [encodedText_eq, dataValues_append, dataValues_map_encAt v fun _ => symbolValues_lt, hpads, List.append_nil]

theorem padCountOf_encodedText (v : Variant) (bytes : List Byte) :
    padCountOf (rom v) (encodedText (rom v) bytes) = textPads (rom v) bytes.length := by
  have hsymbols : padCountOf (rom v) ((symbolValues (rom v) bytes).map (rom v).encAt) = 0 :=
    List.countP_eq_zero.2 fun c hc => by
      simpa using CharClass.ne_pad_of_isData (classify_of_mem_symbols hc)
  have hpads : padCountOf (rom v) (List.replicate (textPads (rom v) bytes.length) (rom v).padSymbol) =
      textPads (rom v) bytes.length :=
    (List.countP_eq_length.2 fun c hc => by simpa using classify_of_mem_pads hc).trans List.length_replicate
  rw [encodedText_eq, padCountOf_append, hsymbols, hpads, Nat.zero_add]

theorem hasInvalid_encodedText (v : Variant) (bytes : List Byte) :
    hasInvalid (rom v) (encodedText (rom v) bytes) = false := by
  refine List.any_eq_false.2 fun c hc => ?_
  rw [encodedText_eq] at hc
  obtain hsym | hpad := List.mem_append.1 hc
  · simpa using CharClass.ne_invalid_of_isData (classify_of_mem_symbols hsym)
  · simp [classify_of_mem_pads hpad]

theorem hasDataAfterPad_encodedText (v : Variant) (bytes : List Byte) :
    hasDataAfterPad (rom v) (encodedText (rom v) bytes) = false := by
  rw [hasDataAfterPad, encodedText_eq, List.dropWhile_append_of_pos fun c hc => by
    simpa using CharClass.ne_pad_of_isData (classify_of_mem_symbols hc)]
  refine List.any_eq_false.2 fun c hc => ?_
  rw [classify_of_mem_pads ((List.dropWhile_sublist _).mem hc)]
  decide

/-- The checks pass the counts of an encoded text: a valid remainder, and pads, if the policy asks for them, up to a
whole block (43_decode.md R217 to R220). -/
theorem checkCounts_encodedText (v : Variant) (n : Nat) :
    checkCounts (rom v) false (dataSymbols (rom v) n) (textPads (rom v) n) = .none := by
  obtain ⟨-, -, hbbc, -, -⟩ := rom_block v
  have hrem : validRem (rom v) (dataSymbols (rom v) n % (rom v).blockSymbols) = true :=
    validRem_iff.2 ⟨_, Nat.mod_lt n hbbc, dataSymbols_mod v n⟩
  by_cases hreq : (rom v).padPolicy = .required
  · obtain ⟨hfull, -⟩ := dataSymbols_add_textPads hreq n
    have hpads : textPads (rom v) n = expectedPad (rom v) (dataSymbols (rom v) n % (rom v).blockSymbols) := if_pos hreq
    rw [hpads] at hfull
    simp [checkCounts, hfull, hrem, hpads]
  · have hpads : textPads (rom v) n = 0 := if_neg hreq
    simp [checkCounts, paddedForm, hreq, hrem, hpads]

/-! The round trip. -/

/-- Settles O30: the emission writes the whole bytes of the number of the text's symbol values, which is the number of
the bytes encoded followed by fewer than eight zero bits. -/
theorem decodeOfEncodeGivesTheBytesBack : Obligations.DecodeOfEncodeGivesTheBytesBack := by
  intro i hi d hd hvariant s t u hexec hlen hunits hprem
  have hrecord : d.record = rom i.variant := congrArg rom hvariant
  have hop : s.inputUnits.length = s.operand := s.inputUnits_length
  obtain ⟨-, -, hout⟩ := exec_enc_next hi hexec
  have htext : u.inputUnits = encodedText (rom i.variant) s.inputUnits := by
    refine Eq.trans ?_ hout
    rw [State.inputUnits, State.operand, hlen]
    exact List.map_congr_left fun j hj => hunits j (List.mem_range.1 hj)
  obtain ⟨hsymbols, hfill⟩ := dataSymbols_mul i.variant s.inputUnits.length
  have hbps := rom_bitsPerSymbol_le i.variant
  obtain ⟨w, hw, hended, hrlen, hnumber⟩ := exec_dec_of_accepted hd hprem
    (by rw [hrecord, htext, hasInvalid_encodedText])
    (by rw [hrecord, htext, hasDataAfterPad_encodedText, dataValues_encodedText, padCountOf_encodedText,
      symbolValues_length, checkCounts_encodedText]) rfl
  rw [hrecord, htext, dataValues_encodedText, symbolValues_length, Nat.mul_comm, hsymbols] at hrlen hnumber
  rw [bigEndian_symbolValues, show (8 * s.inputUnits.length + fillBits (rom i.variant) s.inputUnits.length) % 8 =
    fillBits (rom i.variant) s.inputUnits.length by omega, Nat.mul_div_cancel _ (Nat.two_pow_pos _)] at hnumber
  have hbytes : w.outputUnits = s.inputUnits :=
    eq_of_byteNumber_eq (by rw [State.outputUnits_length, hrlen]; omega) hnumber
  refine ⟨w, hw, hended, ?_, fun j hj => State.outUnit_of_getElem? ?_⟩
  · rw [← State.outputUnits_length, hbytes, hop]
    rfl
  · rw [hbytes]
    simp [State.inputUnits, hj]

end Sys2Proof.Machine
end

section
/-! PROOFS. The verdict of a decode (43_decode.md R213 to R221): the scan ends early exactly on an invalid character,
the registers it leaves are facts of the text, and with the checks they give the decision list of R221. -/

namespace Sys2Proof.Machine

/-! What the scan finds. -/

/-- Induction over a scan that has gone through: it stops where no unit is left, and each unit before is scanned. -/
theorem scanUnits_induction {D : Descriptor} {P : State → State → Prop} (stop : ∀ s, s.operand ≤ s.idx → P s s)
    (unit : ∀ s u t, s.idx < s.operand → scanUnit D s = some u → P u t → P s t) {n : Nat} {s t : State}
    (h : scanUnits D n s = some t) (hn : s.operand - s.idx ≤ n) : P s t := by
  induction n generalizing s with
  | zero =>
    cases h
    exact stop _ (by omega)
  | succ n ih =>
    simp only [scanUnits] at h
    split at h
    case isFalse hidx =>
      cases h
      exact stop _ (by omega)
    case isTrue hidx =>
      obtain ⟨u, hu, ht⟩ := Option.bind_eq_some_iff.1 h
      have huidx := (scanUnit_counts hu).1
      have huop : u.operand = s.operand := by rw [scanUnit_eq hu]; rfl
      exact unit s u t hidx hu (ih ht (by omega))

theorem scanUnit_ne_invalid {D : Descriptor} {s t : State} (h : scanUnit D s = some t) :
    classify D (s.inUnit s.idx) ≠ .invalid := by
  intro hc
  simp [scanUnit, State.classAtIdx, hc] at h

/-- A scan that goes through has met no invalid character (R215). -/
theorem scanUnits_hasInvalid {D : Descriptor} {n : Nat} {s t : State} (h : scanUnits D n s = some t)
    (hn : s.operand - s.idx ≤ n) : hasInvalid D (s.inputUnits.drop s.idx) = false := by
  refine scanUnits_induction (P := fun s _ => hasInvalid D (s.inputUnits.drop s.idx) = false)
    (fun s hs => ?stop) (fun s u t hidx hu hrest => ?unit) h hn
  case stop =>
    rw [State.inputUnits_drop_of_le hs]
    rfl
  case unit =>
    have huidx := (scanUnit_counts hu).1
    have huin : u.inputUnits = s.inputUnits := by rw [scanUnit_eq hu]; rfl
    rw [huin, huidx] at hrest
    rw [State.inputUnits_drop_idx hidx, List.singleton_append, hasInvalid, List.any_cons, Bool.or_eq_false_iff]
    exact ⟨beq_eq_false_iff_ne.2 (scanUnit_ne_invalid hu), hrest⟩

/-- The scan ends early exactly on an invalid character (R215). -/
theorem scanUnits_eq_none_iff {D : Descriptor} {s : State} :
    scanUnits D s.operand (s.startPhase .scan) = none ↔ hasInvalid D s.inputUnits = true := by
  cases hscan : scanUnits D s.operand (s.startPhase .scan) with
  | some t =>
    have hvalid : hasInvalid D s.inputUnits = false := scanUnits_hasInvalid hscan (Nat.sub_le _ _)
    simp [hvalid]
  | none =>
    refine ⟨fun _ => Classical.byContradiction fun hne => ?_, fun _ => rfl⟩
    obtain ⟨t, ht⟩ := scanUnits_isSome (n := s.operand) (s := s.startPhase .scan) (Bool.eq_false_iff.2 hne)
    cases hscan.symm.trans ht

/-- A scan that goes through ends with IDX past the input (R34). -/
theorem scanUnits_idx {D : Descriptor} {n : Nat} {s t : State} (h : scanUnits D n s = some t)
    (hn : s.operand - s.idx ≤ n) : t.idx = max s.idx s.operand := by
  refine scanUnits_induction (P := fun s t => t.idx = max s.idx s.operand)
    (fun s hs => (Nat.max_eq_left hs).symm) (fun s u t hidx hu hrest => ?_) h hn
  have huidx := (scanUnit_counts hu).1
  have huop : u.operand = s.operand := by rw [scanUnit_eq hu]; rfl
  omega

/-- PAD_SEEN after the scan: there was a pad before or there is one among the characters still to be read (R214). -/
theorem scanUnits_padSeen {D : Descriptor} {n : Nat} {s t : State} (h : scanUnits D n s = some t)
    (hn : s.operand - s.idx ≤ n) :
    t.padSeen = (s.padSeen || decide (0 < padCountOf D (s.inputUnits.drop s.idx))) := by
  refine scanUnits_induction
    (P := fun s t => t.padSeen = (s.padSeen || decide (0 < padCountOf D (s.inputUnits.drop s.idx))))
    (fun s hs => ?stop) (fun s u t hidx hu hrest => ?unit) h hn
  case stop =>
    rw [State.inputUnits_drop_of_le hs]
    exact (Bool.or_false _).symm
  case unit =>
    have huidx := (scanUnit_counts hu).1
    have huin : u.inputUnits = s.inputUnits := by rw [scanUnit_eq hu]; rfl
    rw [hrest, huin, huidx, (scanUnit_flags hu).1, State.inputUnits_drop_idx hidx, padCountOf_append, Bool.or_assoc]
    congr 1
    have hunit : padCountOf D [s.inUnit s.idx] = if classify D (s.inUnit s.idx) = .pad then 1 else 0 := by
      simp only [padCountOf, List.countP_singleton, beq_iff_eq]
    by_cases hc : classify D (s.inUnit s.idx) = .pad
    · rw [hunit, if_pos hc, beq_iff_eq.2 hc, Bool.true_or, decide_eq_true (by omega)]
    · rw [hunit, if_neg hc, beq_eq_false_iff_ne.2 hc, Bool.false_or, Nat.zero_add]

/-- Settles O26: the registers after a scan from the start values, one lemma each. -/
theorem scanCountsTheCharacters : Obligations.ScanCountsTheCharacters := by
  refine fun v s => ⟨scanUnits_eq_none_iff, fun t h => ?_⟩
  have hn : s.operand - 0 ≤ s.operand := Nat.sub_le _ _
  obtain ⟨hdata, hpad⟩ := scanUnits_counts h hn
  refine ⟨?_, hdata.trans (Nat.zero_add _), hpad.trans (Nat.zero_add _), scanUnits_padSeen h hn,
    scanUnits_dataAfterPad h hn⟩
  exact (scanUnits_idx h hn).trans (Nat.zero_max _)

theorem byteNumber_singleton (b : Byte) : byteNumber [b] = b.toNat := Nat.zero_add _

/-- Settles O31: what `absorbValue_number` says, the emitted byte written out. -/
theorem absorbingASymbolKeepsThePendingBits : Obligations.AbsorbingASymbolKeepsThePendingBits := by
  intro v x acc accBits hbits hacc hx r hr
  obtain ⟨hbits', hacc', hcount, hnumber⟩ := absorbValue_number hbits hacc (rom_bitsPerSymbol_le v) hx hr
  refine ⟨hbits', hacc', ?_⟩
  rw [← hnumber]
  cases hbyte : r.2.2 with
  | none =>
    rw [hbyte] at hcount
    change 8 * 0 + _ = _ at hcount
    exact ⟨⟨nofun, fun _ => by omega⟩, (Nat.zero_add _).symm.trans hcount, rfl⟩
  | some b =>
    rw [hbyte] at hcount
    change 8 * 1 + _ = _ at hcount
    exact ⟨⟨fun _ => by omega, fun _ => rfl⟩, (Nat.add_comm _ _).trans hcount, by
      rw [Option.toList_some, byteNumber_singleton]⟩

/-! The verdict. -/

theorem paddedForm_iff {D : Descriptor} {padCount : Nat} :
    paddedForm D padCount = true ↔ D.padPolicy = .required ∨ (D.padPolicy = .optional ∧ 0 < padCount) := by
  simp [paddedForm]

/-- The decision list is the invalid characters, then the checks of steps 2 and 3 (R221). -/
theorem verdict_eq (D : Descriptor) (text : List Byte) :
    verdict D text = if hasInvalid D text = true then .symbolError else
      checkCounts D (hasDataAfterPad D text) (dataValues D text).length (padCountOf D text) := by
  simp only [verdict, checkCounts, paddedForm_iff, Bool.not_eq_true]

/-- A `DEC` ends with the verdict of its text (R221). -/
theorem exec_dec_err {i : Instr} {s t : State} (hi : i ∈ decCommands) (h : exec i s = .next t) :
    t.err = verdict i.record s.inputUnits := by
  rw [exec_eq_callOf, op_of_mem_decCommands hi] at h
  rw [verdict_eq]
  obtain ⟨-, ⟨hscan, rfl⟩ | ⟨u, hscan, hend⟩⟩ := decCall_next h
  · rw [if_pos (scanUnits_eq_none_iff.1 hscan)]
    exact (s.raise_ended _ _).1
  · have hvalid : hasInvalid i.record s.inputUnits = false := scanUnits_hasInvalid hscan (Nat.sub_le _ _)
    rw [if_neg (Bool.eq_false_iff.1 hvalid), ← checkErr_of_scan hscan]
    obtain ⟨-, rfl⟩ | ⟨hnone, rfl⟩ := hend
    · exact (u.raise_ended _ _).1
    · exact (State.finish_ended _).1.trans hnone.symm

theorem premises_of_decPremises {i : Instr} {s : State} (hi : i ∈ decCommands) (h : s.decPremises i.record) :
    s.premises i := by
  rw [State.premises, op_of_mem_decCommands hi]
  exact h

/-- Settles O27: a call whose premises hold ends, with the verdict, which is the decision list. -/
theorem decEndsWithTheVerdictOfItsText : Obligations.DecEndsWithTheVerdictOfItsText := by
  intro i hi s hprem
  obtain ⟨t, ht⟩ := exec_of_premises (premises_of_decPremises hi hprem)
  obtain ⟨-, hdone, hbusy, hphase⟩ := exec_ended ht
  refine ⟨t, ht, hdone, hbusy, hphase, ?status, ?list⟩
  case status =>
    rw [exec_status ht]
    cases t.err <;> rfl
  case list =>
    rintro dataCount padCount paddedForm rfl rfl hform
    have hinvalid : hasInvalid i.record s.inputUnits = true ↔
        ∃ c ∈ s.inputUnits, classify i.record c = .invalid := by simp [hasInvalid]
    rw [← hinvalid, hform, exec_dec_err hi ht]
    unfold verdict
    refine ⟨fun h1 => if_pos h1, fun h1 => ?_⟩
    rw [if_neg h1]
    refine ⟨fun h2 => if_pos h2, fun h2 => ?_⟩
    rw [if_neg (Bool.eq_false_iff.1 h2)]
    refine ⟨fun h3 => if_pos h3, fun h3 => ?_⟩
    rw [if_neg h3]
    refine ⟨fun h4 => if_pos h4, fun h4 => ?_⟩
    rw [if_neg (by rw [h4]; decide)]
    exact ⟨fun h5 => if_pos h5, fun h5 => if_neg h5⟩

end Sys2Proof.Machine
end

section
/-! PROOFS. What an accepted decode writes (43_decode.md R222 to R227): the whole bytes of the bits of the text's data
values, which are what `unpack` gives block by block. -/

namespace Sys2Proof.Machine

/-! The bytes of symbol values. -/

/-- The bits of a sequence of symbol values. -/
def symbolBits (D : Descriptor) (values : List Nat) : Nat := values.length * D.bitsPerSymbol

/-- The whole bytes of a sequence of symbol values; the bits left over are discarded (R224). -/
def wholeBytes (D : Descriptor) (values : List Nat) : List Byte :=
  (digitsOf 256 (symbolBits D values / 8)
    (bigEndian (2 ^ D.bitsPerSymbol) values / 2 ^ (symbolBits D values % 8))).map (BitVec.ofNat 8)

@[simp] theorem wholeBytes_length (D : Descriptor) (values : List Nat) :
    (wholeBytes D values).length = symbolBits D values / 8 := by simp [wholeBytes, digitsOf]

theorem byteNumber_map_digitsOf (m N : Nat) :
    byteNumber ((digitsOf 256 m N).map (BitVec.ofNat 8)) = N % 2 ^ (8 * m) := by
  have hdigits : ((digitsOf 256 m N).map (BitVec.ofNat 8)).map BitVec.toNat = digitsOf 256 m N := by
    simp [digitsOf]
  rw [byteNumber, hdigits, bigEndian_digitsOf, Nat.pow_mul]

theorem bigEndian_lt_symbolBits {D : Descriptor} {values : List Nat} (h : ∀ k ∈ values, k < 2 ^ D.bitsPerSymbol) :
    bigEndian (2 ^ D.bitsPerSymbol) values < 2 ^ symbolBits D values := by
  rw [symbolBits, Nat.mul_comm, Nat.pow_mul]
  exact bigEndian_lt h

/-- The number of the whole bytes is that of the values without the bits left over. -/
theorem byteNumber_wholeBytes {D : Descriptor} {values : List Nat} (h : ∀ k ∈ values, k < 2 ^ D.bitsPerSymbol) :
    byteNumber (wholeBytes D values) =
      bigEndian (2 ^ D.bitsPerSymbol) values / 2 ^ (symbolBits D values % 8) := by
  rw [wholeBytes, byteNumber_map_digitsOf]
  refine Nat.mod_eq_of_lt (Nat.div_lt_of_lt_mul ?_)
  rw [← Nat.pow_add, Nat.mod_add_div]
  exact bigEndian_lt_symbolBits h

/-! `unpack`. -/

/-- A full block, or one of a valid remainder, yields its whole bytes (R173, R227). -/
theorem blockYield_eq (v : Variant) : ∀ m ≤ (rom v).blockSymbols,
    m = (rom v).blockSymbols ∨ validRem (rom v) m = true →
      blockYield (rom v) m = m * (rom v).bitsPerSymbol / 8 := by
  cases v <;> decide

/-- `unpack` gives the whole bytes of such a block (R106, R107). -/
theorem unpack_eq_wholeBytes (v : Variant) {S : List Nat} (hS : S.length ≤ (rom v).blockSymbols)
    (hrem : S.length = (rom v).blockSymbols ∨ validRem (rom v) S.length = true) :
    unpack (rom v) S = wholeBytes (rom v) S := by
  obtain ⟨-, -, -, -, hblock⟩ := rom_block v
  have hbits : symbolBits (rom v) S + (rom v).bitsPerSymbol * ((rom v).blockSymbols - S.length) =
      8 * (rom v).blockBytes := by
    rw [symbolBits, Nat.mul_comm, ← Nat.mul_add, Nat.add_sub_cancel' hS, Nat.mul_comm, hblock, Nat.mul_comm]
  rw [unpack, blockYield_eq v _ hS hrem, wholeBytes, digitsOf, List.map_map]
  refine List.map_congr_left fun j hj => ?_
  have hj := List.mem_range.1 hj
  change j < symbolBits (rom v) S / 8 at hj
  rw [blockNumber, ← Nat.pow_mul,
    show 8 * (rom v).blockBytes - 8 * (j + 1) = symbolBits (rom v) S % 8 + 8 * (symbolBits (rom v) S / 8 - 1 - j) +
      (rom v).bitsPerSymbol * ((rom v).blockSymbols - S.length) by omega,
    Nat.pow_add _ (_ + _), Nat.mul_div_mul_right _ _ (Nat.two_pow_pos _), Nat.pow_add, ← Nat.div_div_eq_div_mul,
    Nat.pow_mul]
  exact BitVec.eq_of_toNat_eq (Nat.mod_mod _ _).symm

/-- A full block in front gives its own bytes in front: no bit of it is left over. -/
theorem wholeBytes_full_append (v : Variant) {B xs : List Nat} (hB : B.length = (rom v).blockSymbols)
    (hlt : ∀ k ∈ B ++ xs, k < 2 ^ (rom v).bitsPerSymbol) :
    wholeBytes (rom v) (B ++ xs) = wholeBytes (rom v) B ++ wholeBytes (rom v) xs := by
  obtain ⟨-, -, -, -, hblock⟩ := rom_block v
  have hbits : symbolBits (rom v) B = (rom v).blockBytes * 8 := by rw [symbolBits, hB, hblock]
  have happend : symbolBits (rom v) (B ++ xs) = symbolBits (rom v) B + symbolBits (rom v) xs := by
    rw [symbolBits, List.length_append, Nat.add_mul]
    rfl
  refine eq_of_byteNumber_eq ?length ?number
  case length =>
    rw [List.length_append, wholeBytes_length, wholeBytes_length, wholeBytes_length, happend]
    omega
  case number =>
    have htail : symbolBits (rom v) (B ++ xs) % 8 = symbolBits (rom v) xs % 8 := by omega
    have hxs : xs.length * (rom v).bitsPerSymbol = 8 * (symbolBits (rom v) xs / 8) + symbolBits (rom v) xs % 8 :=
      (Nat.div_add_mod _ _).symm
    rw [byteNumber_append, byteNumber_wholeBytes hlt, wholeBytes_length,
      byteNumber_wholeBytes fun k hk => hlt k (List.mem_append_left _ hk),
      byteNumber_wholeBytes fun k hk => hlt k (List.mem_append_right _ hk), htail, hbits, Nat.mul_mod_left,
      Nat.pow_zero, Nat.div_one, bigEndian_append, ← Nat.pow_mul, Nat.mul_comm (rom v).bitsPerSymbol, hxs,
      Nat.pow_add, ← Nat.mul_assoc, Nat.add_comm, Nat.add_mul_div_right _ _ (Nat.two_pow_pos _), Nat.add_comm]

/-- Block by block `unpack` gives the whole bytes of symbol values with a valid remainder (R227). -/
theorem flatMap_unpack_blocksOf (v : Variant) (values : List Nat)
    (hlt : ∀ k ∈ values, k < 2 ^ (rom v).bitsPerSymbol)
    (hrem : validRem (rom v) (values.length % (rom v).blockSymbols) = true) :
    (blocksOf (rom v).blockSymbols values).flatMap (unpack (rom v)) = wholeBytes (rom v) values := by
  obtain ⟨-, -, hbbc, hle, -⟩ := rom_block v
  have hbsc : 0 < (rom v).blockSymbols := by omega
  induction values using block_induction hbsc with
  | nil => simp [wholeBytes, digitsOf, symbolBits]
  | partialBlock B h0 hB =>
    rw [Nat.mod_eq_of_lt hB] at hrem
    rw [blocksOf_partial h0 (Nat.le_of_lt hB), List.flatMap_singleton,
      unpack_eq_wholeBytes v (Nat.le_of_lt hB) (.inr hrem)]
  | fullBlock B xs hB ih =>
    rw [List.length_append, hB, Nat.add_mod_left] at hrem
    rw [blocksOf_full_append hbsc hB, List.flatMap_cons, ih (fun k hk => hlt k (List.mem_append_right _ hk)) hrem,
      unpack_eq_wholeBytes v (Nat.le_of_eq hB) (.inl hB), wholeBytes_full_append v hB hlt]

/-! The call. -/

/-- A data value has `bps` bits (R99). -/
theorem classify_data_lt (v : Variant) {c x : Byte} (h : classify (rom v) c = .data x) :
    x.toNat < 2 ^ (rom v).bitsPerSymbol := by
  obtain ⟨rfl, hvalid, -⟩ := classify_data h
  exact decAt_lt v c hvalid

theorem dataValues_lt (v : Variant) {text : List Byte} {k : Nat} (h : k ∈ dataValues (rom v) text) :
    k < 2 ^ (rom v).bitsPerSymbol := by
  obtain ⟨c, -, hc⟩ := List.mem_filterMap.1 h
  cases hclass : classify (rom v) c <;> rw [hclass] at hc <;> cases hc
  exact classify_data_lt v hclass

/-- The verdict `none`: the scan goes through and the checks pass (R221). -/
theorem verdict_eq_none_iff {D : Descriptor} {text : List Byte} :
    verdict D text = .none ↔ hasInvalid D text = false ∧
      checkCounts D (hasDataAfterPad D text) (dataValues D text).length (padCountOf D text) = .none := by
  rw [verdict_eq]
  cases hasInvalid D text <;> simp

/-- The checks pass only a valid remainder (R218). -/
theorem checkCounts_none_validRem {D : Descriptor} {dap : Bool} {dataCount padCount : Nat}
    (h : checkCounts D dap dataCount padCount = .none) : validRem D (dataCount % D.blockSymbols) = true := by
  refine Classical.not_not.1 fun hrem => ?_
  simp only [checkCounts, if_pos hrem] at h
  split at h
  · cases h
  · split at h <;> cases h

/-- The bytes of a text with verdict `none` are the whole bytes of its data values (R224, R227). -/
theorem decodedBytes_eq_wholeBytes (v : Variant) {text : List Byte} (h : verdict (rom v) text = .none) :
    decodedBytes (rom v) text = wholeBytes (rom v) (dataValues (rom v) text) :=
  flatMap_unpack_blocksOf v _ (fun _ => dataValues_lt v) (checkCounts_none_validRem (verdict_eq_none_iff.1 h).2)

/-- A `DEC` of a text with verdict `none` writes the whole bytes of its data values (R222 to R224). -/
theorem exec_dec_outputUnits {i : Instr} {s t : State} (hi : i ∈ decCommands) (h : exec i s = .next t)
    (hverdict : verdict i.record s.inputUnits = .none) :
    t.outputUnits = wholeBytes i.record (dataValues i.record s.inputUnits) := by
  have hprem : s.premises i := premises_iff.1 (exec_next h).1
  rw [State.premises, op_of_mem_decCommands hi] at hprem
  obtain ⟨hvalid, hcheck⟩ := verdict_eq_none_iff.1 hverdict
  obtain ⟨t', ht', -, hrlen, hnumber⟩ := exec_dec_of_accepted hi hprem hvalid hcheck rfl
  cases h.symm.trans ht'
  rw [Nat.mul_comm] at hrlen hnumber
  refine eq_of_byteNumber_eq ?length ?number
  case length =>
    rw [State.outputUnits_length, wholeBytes_length]
    exact hrlen
  case number =>
    rw [hnumber, Instr.record, byteNumber_wholeBytes fun _ => dataValues_lt i.variant]
    rfl

/-- A `DEC` whose premises hold, on a text with verdict `none`, ends with `none`. -/
theorem exec_dec_of_verdict_none {i : Instr} {s : State} (hi : i ∈ decCommands) (hprem : s.decPremises i.record)
    (hverdict : verdict i.record s.inputUnits = .none) : ∃ t, exec i s = .next t ∧ t.ended .none := by
  obtain ⟨t, ht⟩ := exec_of_premises (premises_of_decPremises hi hprem)
  have hended := exec_ended ht
  rw [exec_dec_err hi ht, hverdict] at hended
  exact ⟨t, ht, hended⟩

/-- Settles O28: engine and mapper both give the whole bytes of the data values. -/
theorem decWritesTheDecodedBytes : Obligations.DecWritesTheDecodedBytes := by
  intro i hi s hprem hverdict
  obtain ⟨t, ht, hended⟩ := exec_dec_of_verdict_none hi hprem hverdict
  have hout := exec_dec_outputUnits hi ht hverdict
  rw [show decodedBytes i.record s.inputUnits = t.outputUnits from
    (decodedBytes_eq_wholeBytes i.variant hverdict).trans hout.symm]
  refine ⟨t, ht, hended, ?_, t.outputUnits_length, fun j hj => State.outputUnits_getElem? hj⟩
  rw [← State.outputUnits_length, hout, wholeBytes_length]
  rfl

end Sys2Proof.Machine
end

section
/-! PROOFS. Texts that decode alike (43_decode.md R225, R228): a decode looks at the classes of the characters that are
not ignored, and of the values of the data characters only their whole bytes count. -/

namespace Sys2Proof.Machine

/-! What a decode looks at. -/

/-- The classes of the characters of a text that are not ignored, in order (R214, R222). -/
def countedClasses (D : Descriptor) (text : List Byte) : List CharClass :=
  (text.map (classify D)).filter (· != .ignored)

section
variable (D : Descriptor) (text : List Byte)

theorem dataValues_eq_counted : dataValues D text = (countedClasses D text).filterMap CharClass.value? := by
  rw [countedClasses, List.filterMap_filter, List.filterMap_map, dataValues]
  refine congrArg (List.filterMap · text) (funext fun c => ?_)
  cases h : classify D c <;> simp [h, CharClass.value?]

theorem padCountOf_eq_counted : padCountOf D text = (countedClasses D text).countP (· == .pad) := by
  rw [countedClasses, List.countP_filter, List.countP_map, padCountOf]
  refine List.countP_congr fun c _ => ?_
  cases h : classify D c <;> simp [h]

theorem hasInvalid_eq_counted : hasInvalid D text = (countedClasses D text).any (· == .invalid) := by
  rw [countedClasses, List.any_filter, List.any_map, hasInvalid]
  refine congrArg text.any (funext fun c => ?_)
  cases h : classify D c <;> simp [h]

theorem hasDataAfterPad_eq_counted :
    hasDataAfterPad D text = ((countedClasses D text).dropWhile (· != .pad)).any CharClass.isData := by
  have hpad : ∀ k : CharClass, (!(k != .ignored) || k != .pad) = (k != .pad) := fun k => by cases k <;> rfl
  have hdata : ∀ k : CharClass, (k != .ignored && k.isData) = k.isData := fun k => by cases k <;> rfl
  rw [countedClasses, List.dropWhile_filter, List.any_filter, List.dropWhile_map, List.any_map, hasDataAfterPad]
  simp only [Function.comp_def, hpad, hdata]

end

theorem classify_eq_ignored_iff {D : Descriptor} {c : Byte} : classify D c = .ignored ↔ D.ignAt c = true := by
  unfold classify
  split
  case isTrue hign => simp [hign]
  case isFalse hign =>
    split
    case isTrue => simp [hign]
    case isFalse => split <;> simp [hign]

/-- Taking the ignored characters out of a text keeps the others (R212). -/
theorem countedClasses_eq_map_filter (D : Descriptor) (text : List Byte) :
    countedClasses D text = (text.filter fun c => !D.ignAt c).map (classify D) := by
  rw [countedClasses, List.filter_map]
  congr 2
  funext c
  rw [Function.comp_apply, Bool.eq_iff_iff, bne_iff_ne, ne_eq, classify_eq_ignored_iff, Bool.not_eq_true,
    Bool.not_eq_true']

theorem countedClasses_append (D : Descriptor) (xs ys : List Byte) :
    countedClasses D (xs ++ ys) = countedClasses D xs ++ countedClasses D ys := by
  rw [countedClasses, List.map_append, List.filter_append]
  rfl

theorem countedClasses_cons_data {D : Descriptor} {c x : Byte} (h : classify D c = .data x) (text : List Byte) :
    countedClasses D (c :: text) = .data x :: countedClasses D text := by
  rw [countedClasses, List.map_cons, h]
  rfl

/-- Two texts with the same counted classes have the same verdict. -/
theorem verdict_congr {D : Descriptor} {xs ys : List Byte} (h : countedClasses D ys = countedClasses D xs) :
    verdict D ys = verdict D xs := by
  simp only [verdict, dataValues_eq_counted, padCountOf_eq_counted, hasInvalid_eq_counted,
    hasDataAfterPad_eq_counted, h]

/-- The verdict does not depend on the value of a data character. -/
theorem verdict_congr_value {D : Descriptor} {xs ys : List Byte} {A B : List CharClass} {x y : Byte}
    (hxs : countedClasses D xs = A ++ .data x :: B) (hys : countedClasses D ys = A ++ .data y :: B) :
    verdict D ys = verdict D xs := by
  have hafter : ∀ v, ((A ++ .data v :: B).dropWhile (· != .pad)).any CharClass.isData =
      ((A ++ .data 0 :: B).dropWhile (· != .pad)).any CharClass.isData := fun v => by
    simp only [List.dropWhile_append]
    split <;> simp [CharClass.isData]
  simp [verdict, dataValues_eq_counted, padCountOf_eq_counted, hasInvalid_eq_counted, hasDataAfterPad_eq_counted,
    hxs, hys, CharClass.value?, hafter x, hafter y]

/-! Two calls. -/

theorem units_eq_of_outputUnits_eq {t w : State} (h : w.outputUnits = t.outputUnits) :
    w.rlen = t.rlen ∧ ∀ j < t.rlen, w.outUnit j = t.outUnit j := by
  refine ⟨?_, fun j hj => State.outUnit_of_getElem? ?_⟩
  · rw [← State.outputUnits_length, h, State.outputUnits_length]
  · rw [h, State.outputUnits_getElem? hj]

section
variable {i : Instr} {s u t w : State}

/-- Two texts with the same verdict and the same whole bytes decode alike. -/
theorem exec_dec_congr (hi : i ∈ decCommands) (ht : exec i s = .next t) (hw : exec i u = .next w)
    (hverdict : verdict i.record u.inputUnits = verdict i.record s.inputUnits)
    (hbytes : wholeBytes i.record (dataValues i.record u.inputUnits) =
      wholeBytes i.record (dataValues i.record s.inputUnits)) :
    w.err = t.err ∧ (t.err = .none → w.rlen = t.rlen ∧ ∀ j < t.rlen, w.outUnit j = t.outUnit j) := by
  rw [exec_dec_err hi ht, exec_dec_err hi hw]
  refine ⟨hverdict, fun hnone => units_eq_of_outputUnits_eq ?_⟩
  rw [exec_dec_outputUnits hi ht hnone, exec_dec_outputUnits hi hw (hverdict.trans hnone), hbytes]

/-- Two texts with the same counted classes decode alike. -/
theorem exec_dec_congr_counted (hi : i ∈ decCommands) (ht : exec i s = .next t) (hw : exec i u = .next w)
    (h : countedClasses i.record u.inputUnits = countedClasses i.record s.inputUnits) :
    w.err = t.err ∧ (t.err = .none → w.rlen = t.rlen ∧ ∀ j < t.rlen, w.outUnit j = t.outUnit j) :=
  exec_dec_congr hi ht hw (verdict_congr h) (by rw [dataValues_eq_counted, h, ← dataValues_eq_counted])

end

/-- Settles O33: the texts have the same counted classes. -/
theorem ignoredCharactersAreSkipped : Obligations.IgnoredCharactersAreSkipped := by
  intro i hi s u t w hfilter ht hw
  refine exec_dec_congr_counted hi ht hw ?_
  rw [countedClasses_eq_map_filter, countedClasses_eq_map_filter, hfilter]

/-! The case of a letter (R133). -/

/-- A letter with its case flipped; any other character itself. -/
def flipCase (c : Byte) : Byte := if lowerOf c = c then upperOf c else lowerOf c

theorem lowerOf_flipCase (c : Byte) : lowerOf (flipCase c) = lowerOf c := by
  unfold flipCase lowerOf upperOf
  repeat' split
  all_goals bv_omega

/-- The characters that stand for a symbol in an insensitive record are those with its lower case. -/
theorem mem_caseVariants_iff {c x : Byte} : c ∈ caseVariants x ↔ lowerOf c = lowerOf x := by
  simp only [caseVariants, List.mem_cons, List.not_mem_nil, or_false]
  unfold lowerOf upperOf
  repeat' split
  all_goals bv_omega

/-- A reverse table in which a letter has one entry for both its cases. -/
def CaseBlind (dec : List Byte) : Prop := ∀ c d : Byte, lowerOf c = lowerOf d → dec[c.toNat]? = dec[d.toNat]?

/-- One turn of the builder gives every case of the symbol its value. -/
theorem buildEntry_getElem?_of_mem {c x : Byte} (h : c ∈ caseVariants x) {dec : List Byte} (hlen : dec.length = 256)
    (k : Nat) : (buildEntry true dec x k)[c.toNat]? = some (BitVec.ofNat 8 k) := by
  have hlt : ∀ b : Byte, b.toNat < 256 := fun b => b.isLt
  simp only [caseVariants, List.mem_cons, List.not_mem_nil, or_false] at h
  simp only [buildEntry, if_true, List.getElem?_set, List.length_set, hlen]
  obtain rfl | rfl | rfl := h
  all_goals simp [hlt]

theorem buildEntry_length (insensitive : Bool) (dec : List Byte) (c : Byte) (k : Nat) :
    (buildEntry insensitive dec c k).length = dec.length := by
  cases insensitive <;> simp [buildEntry]

/-- The builder of an insensitive record makes no difference between the cases of a letter (R133). -/
theorem buildFrom_caseBlind {dec : List Byte} (hlen : dec.length = 256) (hdec : CaseBlind dec) (chars : List Byte)
    (k : Nat) : CaseBlind (buildFrom true dec chars k) := by
  induction chars generalizing dec k with
  | nil => exact hdec
  | cons x chars ih =>
    refine ih ((buildEntry_length ..).trans hlen) (fun c d hcd => ?_) (k + 1)
    have hmem : c ∈ caseVariants x ↔ d ∈ caseVariants x := by rw [mem_caseVariants_iff, mem_caseVariants_iff, hcd]
    by_cases hc : c ∈ caseVariants x
    · rw [buildEntry_getElem?_of_mem hc hlen, buildEntry_getElem?_of_mem (hmem.1 hc) hlen]
    · rw [buildEntry_getElem?_of_notMem hc, buildEntry_getElem?_of_notMem (fun hd => hc (hmem.2 hd)), hdec c d hcd]

section
variable {v : Variant} {c d : Byte}

theorem rom_decAt_congr_case (hv : caseInsensitive v = true) (h : lowerOf c = lowerOf d) :
    (rom v).decAt c = (rom v).decAt d := by
  have hstart : CaseBlind (List.replicate 256 invalidEntry) := fun c d _ => by
    rw [List.getElem?_replicate_of_lt c.isLt, List.getElem?_replicate_of_lt d.isLt]
  have hblind := buildFrom_caseBlind List.length_replicate hstart (symbolString v) 0 c d h
  rw [Descriptor.decAt, Descriptor.decAt, List.getD_eq_getElem?_getD, List.getD_eq_getElem?_getD, rom_dec, hv]
  exact congrArg (·.getD invalidEntry) hblind

/-- A character below the letters has one case. -/
theorem eq_iff_of_lowerOf_eq {x : Byte} (hx : x.toNat < 0x41) (h : lowerOf c = lowerOf d) : c = x ↔ d = x := by
  revert h
  unfold lowerOf
  repeat' split
  all_goals bv_omega

theorem rom_ignAt_congr_case (h : lowerOf c = lowerOf d) : (rom v).ignAt c = (rom v).ignAt d := by
  have hdash := eq_iff_of_lowerOf_eq (x := 0x2D#8) (by decide) h
  by_cases hc : c = 0x2D#8
  · rw [hc, hdash.1 hc]
  · rw [rom_ignAt_of_ne_dash v hc, rom_ignAt_of_ne_dash v fun hd => hc (hdash.2 hd)]

theorem rom_isPad_congr_case (h : lowerOf c = lowerOf d) :
    ((rom v).hasPad && c == (rom v).padSymbol) = ((rom v).hasPad && d == (rom v).padSymbol) := by
  cases hpad : (rom v).hasPad with
  | false => rfl
  | true =>
    have hequals := eq_iff_of_lowerOf_eq (x := equalsSign) (by decide) h
    rw [rom_padSymbol v hpad, Bool.true_and, Bool.true_and, Bool.eq_iff_iff, beq_iff_eq, beq_iff_eq, hequals]

/-- Under an insensitive record the two cases of a letter have the same class (R133, R228). -/
theorem classify_congr_case (hv : caseInsensitive v = true) (h : lowerOf c = lowerOf d) :
    classify (rom v) c = classify (rom v) d := by
  rw [classify, rom_ignAt_congr_case h, rom_isPad_congr_case h, rom_decAt_congr_case hv h]
  rfl

end

/-- Settles O32: flipping the case of the characters keeps their classes. -/
theorem caseFlipDecodesTheSame : Obligations.CaseFlipDecodesTheSame := by
  intro i hi hinsensitive s u t w hlen hflip ht hw
  have hinput : u.inputUnits = s.inputUnits.map flipCase := by
    rw [State.inputUnits, State.operand, hlen, State.inputUnits, List.map_map]
    exact List.map_congr_left fun k hk => hflip k (List.mem_range.1 hk)
  have hclass : classify i.record ∘ flipCase = classify i.record :=
    funext fun c => classify_congr_case hinsensitive (lowerOf_flipCase c)
  refine exec_dec_congr_counted hi ht hw ?_
  rw [countedClasses, hinput, List.map_map, hclass]
  rfl

/-! The bits left over (R225). -/

/-- The bits of `x` below `2^t` do not count in the division of a number that ends in them. -/
theorem mul_add_div_two_pow_congr {b t x y : Nat} (hx : x < 2 ^ b) (hy : y < 2 ^ b) (h : x / 2 ^ t = y / 2 ^ t)
    (N : Nat) : (2 ^ b * N + x) / 2 ^ t = (2 ^ b * N + y) / 2 ^ t := by
  obtain hle | hle := Nat.le_total t b
  · obtain ⟨a, rfl⟩ := Nat.exists_eq_add_of_le hle
    rw [Nat.pow_add, Nat.mul_assoc, Nat.mul_add_div (Nat.two_pow_pos _), Nat.mul_add_div (Nat.two_pow_pos _), h]
  · obtain ⟨a, rfl⟩ := Nat.exists_eq_add_of_le hle
    rw [Nat.pow_add, ← Nat.div_div_eq_div_mul, ← Nat.div_div_eq_div_mul, Nat.mul_add_div (Nat.two_pow_pos _),
      Nat.mul_add_div (Nat.two_pow_pos _), Nat.div_eq_of_lt hx, Nat.div_eq_of_lt hy]

/-- Values that differ only in the bits left over of the last one have the same whole bytes. -/
theorem wholeBytes_congr_last {D : Descriptor} {values : List Nat} {x y : Nat} (hx : x < 2 ^ D.bitsPerSymbol)
    (hy : y < 2 ^ D.bitsPerSymbol)
    (h : x / 2 ^ (symbolBits D (values ++ [x]) % 8) = y / 2 ^ (symbolBits D (values ++ [x]) % 8)) :
    wholeBytes D (values ++ [y]) = wholeBytes D (values ++ [x]) := by
  have hbits : symbolBits D (values ++ [y]) = symbolBits D (values ++ [x]) := by simp [symbolBits]
  rw [wholeBytes, wholeBytes, hbits, bigEndian_concat, bigEndian_concat, mul_add_div_two_pow_congr hx hy h]

/-- An input that may differ in unit `k` alone, around that unit. -/
theorem State.inputUnits_eq_around {s u : State} {k : Nat} (hlen : u.len = s.len) (hk : k < s.operand)
    (hsame : ∀ j < s.operand, j ≠ k → u.inUnit j = s.inUnit j) :
    u.inputUnits = s.inputUnits.take k ++ u.inUnit k :: s.inputUnits.drop (k + 1) := by
  have hset : u.inputUnits = s.inputUnits.set k (u.inUnit k) := by
    refine List.ext_getElem (by simp [State.inputUnits, State.operand, hlen]) fun j hj _ => ?_
    rw [State.inputUnits_length, State.operand, hlen] at hj
    rw [List.getElem_set]
    split
    case isTrue hkj => simp [State.inputUnits, hkj]
    case isFalse hkj => simpa [State.inputUnits] using hsame j hj (Ne.symm hkj)
  rw [hset, List.set_eq_take_append_cons_drop, if_pos (s.inputUnits_length.symm ▸ hk)]

theorem CharClass.value?_of_not_isData {k : CharClass} (h : k.isData = false) : k.value? = none := by
  cases k with
  | data v => cases h
  | _ => rfl

theorem dataValues_drop_eq_nil {D : Descriptor} {s : State} {k : Nat}
    (h : ∀ j < s.operand, k < j → (classify D (s.inUnit j)).isData = false) :
    dataValues D (s.inputUnits.drop (k + 1)) = [] := by
  refine List.filterMap_eq_nil_iff.2 fun c hc => CharClass.value?_of_not_isData ?_
  obtain ⟨j, hj, rfl⟩ := List.getElem_of_mem hc
  rw [List.length_drop, State.inputUnits_length] at hj
  simpa [State.inputUnits] using h (k + 1 + j) (by omega) (by omega)

/-- The data values of a text up to its last data character. -/
theorem dataValues_of_last {D : Descriptor} {c x : Byte} (h : classify D c = .data x) {before after : List Byte}
    (hafter : dataValues D after = []) :
    dataValues D (before ++ c :: after) = dataValues D before ++ [x.toNat] := by
  have hc : dataValues D (c :: after) = x.toNat :: dataValues D after := List.filterMap_cons_some (by rw [h]; rfl)
  rw [dataValues_append, hc, hafter]

/-- `Z`, the symbol of the value `32 + k`, and two pads: for `k` below 16 the texts `Zg==` to `Zv==` (R225). -/
def tailText (k : Nat) : List Byte :=
  [0x5A#8, (rom .base64Rfc4648).encAt (32 + k), equalsSign, equalsSign]

theorem tailText_decodes : ∀ k < 16, verdict (rom .base64Rfc4648) (tailText k) = .none ∧
    wholeBytes (rom .base64Rfc4648) (dataValues (rom .base64Rfc4648) (tailText k)) = [0x66#8] := by
  decide +kernel

/-- Settles O35: the texts differ in the value of one data character, the last, and have the same whole bytes. -/
theorem tailBitsAreNotLookedAt : Obligations.TailBitsAreNotLookedAt := by
  refine ⟨?alike, ?texts⟩
  case alike =>
    intro i hi s u t w k x y hlen hk hsame hx hy hlast htail ht hw
    have hs := State.inputUnits_eq_around rfl hk fun _ _ _ => rfl
    have hu := State.inputUnits_eq_around hlen hk hsame
    have hafter := dataValues_drop_eq_nil hlast
    generalize s.inputUnits.take k = before at hs hu
    generalize s.inputUnits.drop (k + 1) = after at hs hu hafter
    have hsvalues := dataValues_of_last (before := before) hx hafter
    refine exec_dec_congr hi ht hw ?verdict ?bytes
    case verdict =>
      rw [hs, hu]
      refine verdict_congr_value (A := countedClasses i.record before) (B := countedClasses i.record after)
        (x := x) (y := y) ?_ ?_
      · rw [countedClasses_append, countedClasses_cons_data hx]
      · rw [countedClasses_append, countedClasses_cons_data hy]
    case bytes =>
      rw [hs, hsvalues] at htail
      rw [hs, hu, hsvalues, dataValues_of_last hy hafter]
      exact wholeBytes_congr_last (classify_data_lt i.variant hx) (classify_data_lt i.variant hy) (htail _ rfl)
  case texts =>
    intro s k hk hlen h0 h1 h2 h3 hprem
    have hinput : s.inputUnits = tailText k := by
      rw [State.inputUnits, State.operand, hlen, tailText]
      simp [List.range_succ, h0, h1, h2, h3]
    obtain ⟨hverdict, hbytes⟩ := tailText_decodes k hk
    rw [← hinput] at hverdict hbytes
    obtain ⟨t, ht, hended⟩ := exec_dec_of_verdict_none (i := .decB64) (by decide) hprem hverdict
    have hout := (exec_dec_outputUnits (i := .decB64) (by decide) ht hverdict).trans hbytes
    refine ⟨t, ht, hended, ?_, State.outUnit_of_getElem? (by rw [hout]; rfl)⟩
    rw [← State.outputUnits_length, hout]
    rfl

end Sys2Proof.Machine
end

section
/-! PROOFS. The end of a call (60_exceptions.md R250 to R259): what every command leaves alone, which command can end
with which error, and what the verdict of a decode depends on. -/

namespace Sys2Proof.Machine

/-! What a command leaves alone (R254). -/

section
variable {i : Instr} {s t : State}

/-- A command keeps the fields of the host (notes/assumptions/2.md). -/
theorem exec_hostFields (h : exec i s = .next t) :
    t.inAt = s.inAt ∧ t.outAt = s.outAt ∧ t.outCap = s.outCap ∧ t.pending = s.pending ∧ t.readings = s.readings := by
  obtain ⟨-, u, hu, rfl | ⟨e, -, -, -, -, rfl⟩⟩ := exec_next h
  · rw [hu]; exact ⟨rfl, rfl, rfl, rfl, rfl⟩
  · obtain ⟨-, -, hframe⟩ := u.raise_frame e (decodedMaxSize i.record s.operand)
    rw [hu] at hframe ⊢
    exact hframe

/-- No unit of the input lies in the write frame of a call whose premises hold (20_memory.md R69). -/
theorem not_sharesUnits_frameSize (h : s.premises i) : ¬ s.sharesUnits (s.frameSize i.op i.record) := by
  unfold State.premises at h
  cases hop : i.op <;> rw [hop] at h
  case esz | dms =>
    rintro ⟨-, -, j, hj, -⟩
    exact Nat.not_lt_zero j hj
  case enc =>
    obtain ⟨-, -, hfree⟩ := h
    exact hfree
  case dec =>
    obtain ⟨-, hfree⟩ := h
    exact hfree

theorem mem_decCommands_of_op (h : i.op = .dec) : i ∈ decCommands := by
  revert h
  cases i <;> decide

/-- A command writes within its write frame, however it ends (20_memory.md R67). -/
theorem exec_read_outside_frame (h : exec i s = .next t) {a : Nat}
    (ha : a < s.outAt ∨ s.outAt + s.frameSize i.op i.record ≤ a) : t.mem.read a = s.mem.read a := by
  refine sinkWriteFrame i s t h a (ha.imp_right fun ha => Nat.le_trans (Nat.add_le_add_left ?_ _) ha)
  cases hop : i.op
  case esz | dms | enc => exact Nat.le_refl _
  case dec =>
    obtain ⟨hrlen, -⟩ := decResultIsBoundedByDms i (mem_decCommands_of_op hop) s t h
    dsimp only
    split
    case isTrue => exact hrlen
    case isFalse => exact Nat.le_refl _

/-- A command keeps its input: what it writes lies in the write frame, and no unit of the input does. -/
theorem exec_inUnit (h : exec i s = .next t) {k : Nat} (hk : k < s.operand) : t.inUnit k = s.inUnit k := by
  have hfree := not_sharesUnits_frameSize (premises_iff.1 (exec_next h).1)
  obtain ⟨hin, -⟩ := exec_hostFields h
  rw [State.inUnit, hin]
  refine State.unitAt_congr (exec_read_outside_frame h ?_)
  refine Classical.not_not.1 fun hboth => hfree ⟨k, hk, s.inAt + k - s.outAt, ?_, ?_⟩ <;> omega

end

/-- Settles O19: the registers and the host's fields by the two ways a call can end, the input by the write frame. -/
theorem commandFrame : Obligations.CommandFrame := by
  intro i s t h
  obtain ⟨hcmd, hlen⟩ := exec_cmd_len h
  obtain ⟨hin, hout, hcap, hpending, hreadings⟩ := exec_hostFields h
  obtain ⟨-, hdone, hbusy, hphase⟩ := exec_ended h
  exact ⟨hcmd, hlen, fun k hk => exec_inUnit h hk, hin, hout, hcap, hpending, hreadings, hdone, hbusy, hphase⟩

/-! Errors (R255). -/

/-- The checks raise a padding error in the padded form alone (43_decode.md R217, R219, R220). -/
theorem paddedForm_of_checkCounts_eq_paddingError {D : Descriptor} {dap : Bool} {dataCount padCount : Nat}
    (h : checkCounts D dap dataCount padCount = .paddingError) : paddedForm D padCount = true := by
  refine Classical.byContradiction fun hne => ?_
  have hform : paddedForm D padCount = false := Bool.eq_false_iff.2 hne
  simp only [checkCounts, hform, Bool.false_eq_true, false_and, if_false] at h
  split at h
  · cases h
  · split at h <;> cases h

/-- A text whose verdict is a padding error is validated in the padded form (43_decode.md R221). -/
theorem paddedForm_of_verdict_eq_paddingError {D : Descriptor} {text : List Byte}
    (h : verdict D text = .paddingError) : paddedForm D (padCountOf D text) = true := by
  rw [verdict_eq] at h
  split at h
  · cases h
  · exact paddedForm_of_checkCounts_eq_paddingError h

/-- Settles O21: only a `DEC` raises an error, and under the optional policy the padded form is that of a text with
a pad. -/
theorem errorsOfEachCommand : Obligations.ErrorsOfEachCommand := by
  intro i s t h
  obtain ⟨hdec, hforbidden⟩ := exec_err h
  refine ⟨fun hop => Classical.not_not.1 fun hne => hop (hdec hne), fun hpolicy herr => hforbidden herr hpolicy,
    fun hpolicy herr => ?_⟩
  have hi : i ∈ decCommands := mem_decCommands_of_op (hdec (by simp [herr]))
  rw [exec_dec_err hi h] at herr
  obtain hrequired | ⟨-, hpad⟩ := paddedForm_iff.1 (paddedForm_of_verdict_eq_paddingError herr)
  · cases hpolicy.symm.trans hrequired
  · exact hpad

/-! The facts a verdict depends on (R259). -/

/-- A text with an invalid character has the verdict `symbol_error`, whatever comes after it. -/
theorem exec_dec_err_of_invalid {i : Instr} {s t : State} (hi : i ∈ decCommands) (h : exec i s = .next t) {k : Nat}
    (hk : k < s.operand) (hinvalid : classify i.record (s.inUnit k) = .invalid) : t.err = .symbolError := by
  have hmem : s.inUnit k ∈ s.inputUnits := List.mem_map_of_mem (List.mem_range.2 hk)
  have hany : hasInvalid i.record s.inputUnits = true := List.any_eq_true.2 ⟨_, hmem, beq_iff_eq.2 hinvalid⟩
  rw [exec_dec_err hi h, verdict_eq, if_pos hany]

/-- Settles O34: the decision list is written in the five facts, and an invalid character decides it alone. -/
theorem verdictDependsOnFiveFacts : Obligations.VerdictDependsOnFiveFacts := by
  intro i hi s u t w ht hw
  refine ⟨fun hinvalid hafter hdata hpad => ?facts, fun k hs hu hsame hinvalid => ?first⟩
  case facts =>
    rw [exec_dec_err hi ht, exec_dec_err hi hw, verdict_eq, verdict_eq, hinvalid, hafter, hdata, hpad]
  case first =>
    have hinvalid' : classify i.record (u.inUnit k) = .invalid := hsame k (Nat.le_refl k) ▸ hinvalid
    exact ⟨exec_dec_err_of_invalid hi ht hs hinvalid, exec_dec_err_of_invalid hi hw hu hinvalid'⟩

end Sys2Proof.Machine
end

section
/-! PROOFS. The call protocol (70_reset_and_hazards.md R280 to R294): whose move a step is, the start of a call and its
end, reset, and what a call's result depends on. -/

namespace Sys2Proof.Machine

/-! The engine's move (log 14). -/

/-- With nothing to come, or a wait next, the host only waits. -/
theorem State.hostOnlyWaits_of_pending {s : State} (hp : s.pending = [] ∨ ∃ rest, s.pending = .waitDone :: rest) :
    s.hostOnlyWaits = true := by
  unfold State.hostOnlyWaits
  obtain hp | ⟨rest, hp⟩ := hp <;> rw [hp]

/-- While the host only waits, the step runs the command in CMD. -/
theorem step_of_hostOnlyWaits {s : State} (hb : s.busy = true) (hw : s.hostOnlyWaits = true) :
    step s = exec (decodeCmd s.cmd) s :=
  step_of_engineTurn hb (engineTurn_of_hostOnlyWaits hw)

/-- Settles O5: waiting is the engine's turn. -/
theorem stepRunsTheDecodedCommand : Obligations.StepRunsTheDecodedCommand := fun _ hb hp =>
  step_of_hostOnlyWaits hb (State.hostOnlyWaits_of_pending hp)

/-- Settles O44: under the invariant no premise of the running call is broken, so its command answers a next state,
and what answers a next state has ended. -/
theorem aStartedCallEnds : Obligations.AStartedCallEnds := by
  refine ⟨fun s hs hb ht => ?_, fun s hp => engineTurn_of_hostOnlyWaits (State.hostOnlyWaits_of_pending hp)⟩
  obtain ⟨-, hstart, -⟩ := hs
  obtain ⟨-, -, hr⟩ := hstart hb
  obtain ⟨t, he⟩ := exec_of_premises (premises_iff.1 hr)
  obtain ⟨-, hdone, hbusy, hphase⟩ := exec_ended he
  exact ⟨t, (step_of_engineTurn hb ht).trans he, hbusy, hdone, hphase⟩

/-! The command word of a started call (log 3). -/

/-- The table numbers a command by its word (30_encoding.md R93). -/
theorem decodeTableWord_encodeCmd (i : Instr) : decodeTableWord 8 (encodeCmd i).toNat = some i := by
  cases i <;> rfl

theorem decodeTableWord_of_lt {w : Nat} (h : w < 32) :
    decodeTableWord 8 w = some (decodeCmd (BitVec.ofNat 5 w)) := by
  have hw : (encodeCmd (decodeCmd (BitVec.ofNat 5 w))).toNat = w := by
    rw [encodeCmd_decodeCmd, BitVec.toNat_ofNat, Nat.mod_eq_of_lt h]
  have htable := decodeTableWord_encodeCmd (decodeCmd (BitVec.ofNat 5 w))
  rwa [hw] at htable

/-- Placing a word is the start of its call, but for what the host does next. -/
theorem State.withFetchWord_eq (s : State) (nbits w : Nat) :
    s.withFetchWord nbits w =
      { s.startCall (BitVec.ofNat 5 w) with pending := (s.withFetchWord nbits w).pending } :=
  State.hostWaits_eq _

/-- Settles O6: the call of the word has been started and the host waits. -/
theorem startedWordIsRunNext : Obligations.StartedWordIsRunNext := by
  intro s nbits w hw
  have hstart := s.withFetchWord_eq nbits w
  have hcmd : (s.withFetchWord nbits w).cmd = BitVec.ofNat 5 w := congrArg State.cmd hstart
  have hbusy : (s.withFetchWord nbits w).busy = true := busy_of_statusBusy (congrArg State.status hstart)
  have hstep := step_of_hostOnlyWaits hbusy (State.hostWaits_hostOnlyWaits _)
  rw [hcmd] at hstep
  exact ⟨_, decodeTableWord_of_lt hw, hstep, by rw [hcmd, encodeCmd_decodeCmd], (congrArg State.len hstart :),
    (congrArg State.mem hstart :), (congrArg State.inAt hstart :), (congrArg State.outAt hstart :),
    (congrArg State.outCap hstart :)⟩

/-! The host's move while idle. -/

/-- Settles O50: idle, the move is the host's, which has none to make. -/
theorem nothingChangesBetweenCalls : Obligations.NothingChangesBetweenCalls := fun _ hb hp =>
  (step_of_idle hb).trans (hostStep_nil hp)

/-- Settles O11, by the arm of the action. -/
theorem resetEventClearsTheRegisters : Obligations.ResetEventClearsTheRegisters := by
  intro s rest hb hp
  rw [step_idle_action hb hp, State.dropPending_eq hp]
  rfl

/-- A CMD write whose premises hold starts the call (70_reset_and_hazards.md R284). -/
theorem step_writeCmd_of_premises {s : State} {w : BitVec 5} {rest : List HostAction} (hb : s.busy = false)
    (hp : s.pending = .writeCmd w :: rest) (hprem : s.premises (decodeCmd w)) :
    step s = .next (State.startCall { s with pending := rest } w) := by
  have hr : State.callRefusal { s with pending := rest } (decodeCmd w).op (rom (decodeCmd w).variant) = none :=
    premises_iff.2 hprem
  rw [step_idle_action hb hp, State.dropPending_eq hp]
  simp only [hostIdle, hr]

/-- Settles O7: the state is that of the started call. -/
theorem cmdWriteStartsTheCall : Obligations.CmdWriteStartsTheCall := by
  intro s w rest hb hp hprem
  exact ⟨_, step_writeCmd_of_premises hb hp hprem, rfl, rfl, busy_of_statusBusy rfl, done_of_statusBusy rfl,
    err_of_statusBusy rfl, rfl, rfl, rfl, rfl, rfl, rfl, rfl, rfl, rfl, rfl, firstPhase_ne_idle _,
    rfl, rfl, rfl, rfl, rfl, rfl⟩

/-- Waiting for a call that has ended is over at once (30_encoding.md R110). -/
theorem step_waitDone_of_done {s : State} {rest : List HostAction} (hb : s.busy = false) (hd : s.done = true)
    (hp : s.pending = .waitDone :: rest) : step s = .next { s with pending := rest } := by
  rw [step_idle_action hb hp, State.dropPending_eq hp]
  exact if_pos hd

/-- A run whose first step answers a next state goes on from there. -/
theorem run_succ_of_step {s t : State} (h : step s = .next t) (k : Nat) :
    Host.Core.run core (k + 1) s = Host.Core.run core k t := by
  have hcore : core.step s = .next t := h
  simp only [Host.Core.run, hcore]

/-- Settles O9: the first step starts the call, the second completes it, the third ends the wait. -/
theorem commandRunsFromCmdWriteToDone : Obligations.CommandRunsFromCmdWriteToDone := by
  intro s w rest hb hp hprem
  have hstart := step_writeCmd_of_premises hb hp hprem
  generalize hu : State.startCall { s with pending := .waitDone :: rest } w = u at hstart
  have hcmd : u.cmd = w := congrArg State.cmd hu.symm
  have hlen : u.len = s.len := (congrArg State.len hu.symm :)
  have hpending : u.pending = .waitDone :: rest := congrArg State.pending hu.symm
  have hbusy : u.busy = true := busy_of_statusBusy (congrArg State.status hu.symm)
  have hpremises : u.premises (decodeCmd w) := hu ▸ hprem
  obtain ⟨t, ht⟩ := exec_of_premises hpremises
  have hcall : step u = .next t := by
    rw [step_of_hostOnlyWaits hbusy (State.hostOnlyWaits_of_pending (.inr ⟨rest, hpending⟩)), hcmd, ht]
  obtain ⟨htcmd, htlen⟩ := exec_cmd_len ht
  obtain ⟨-, -, -, htpending, -⟩ := exec_hostFields ht
  obtain ⟨-, hdone, hidle, hphase⟩ := exec_ended ht
  have hwait := step_waitDone_of_done hidle hdone (htpending.trans hpending)
  refine ⟨{ t with pending := rest }, ?_, hdone, hidle, hphase, rfl, htcmd.trans hcmd, htlen.trans hlen⟩
  rw [run_succ_of_step hstart, run_succ_of_step hcall, run_succ_of_step hwait]
  rfl

/-! The host's move while a call runs. -/

/-- The host actions that can leave the next move to the engine: a wait, and the reads of registers (log 14). -/
def HostAction.yieldsToEngine : HostAction → Bool
  | .waitDone | .readStatus | .readRlen | .readCmd | .readLen => true
  | _ => false

theorem engineTurn_of_not_yieldsToEngine {s : State} {a : HostAction} {rest : List HostAction}
    (hp : s.pending = a :: rest) (ha : a.yieldsToEngine = false) : s.engineTurn = false := by
  simp only [State.engineTurn, State.hostOnlyWaits, State.hostReadsNext, hp]
  cases a with
  | waitDone | readStatus | readRlen | readCmd | readLen => cases ha
  | _ => rfl

/-- Every other action meets the call still running (log 14). -/
theorem step_busy_action {s : State} {a : HostAction} {rest : List HostAction} (hb : s.busy = true)
    (hp : s.pending = a :: rest) (ha : a.yieldsToEngine = false) :
    step s = hostBusy a { s with pending := rest } := by
  rw [step_of_hostTurn (engineTurn_of_not_yieldsToEngine hp ha), hostStep_busy hb hp, State.dropPending_eq hp]

/-- Settles O45, by the arm of each action. -/
theorem busyHazardsAreRefused : Obligations.BusyHazardsAreRefused := by
  intro s rest hb
  exact ⟨fun _ hp => step_busy_action hb hp rfl, fun _ hp => step_busy_action hb hp rfl,
    fun _ _ hp => step_busy_action hb hp rfl, fun _ hp => step_busy_action hb hp rfl,
    fun _ _ hp => step_busy_action hb hp rfl, fun _ hp => step_busy_action hb hp rfl⟩

/-- Abandoning a call puts every register at its reset value and keeps the host's fields (R281, log 11). -/
theorem State.abandonCall_eq (s : State) :
    s.abandonCall = { State.reset with
      mem := s.abandonCall.mem, inAt := s.inAt, outAt := s.outAt, outCap := s.outCap, pending := s.pending,
      readings := s.readings, draws := s.draws + 1 } := by
  simp only [State.abandonCall]
  rw [State.scrambleFrame_eq]
  rfl

/-- Abandoning a call changes no unit outside the write frame (R281, 20_memory.md R67). -/
theorem State.abandonCall_read_outside (s : State) {a : Nat} (ha : a < s.outAt ∨
    s.outAt + s.frameSize (decodeCmd s.cmd).op (decodeCmd s.cmd).record ≤ a) :
    s.abandonCall.mem.read a = s.mem.read a := by
  refine (s.scrambleFrame_read _ a).trans (if_neg fun hin => ?_)
  change s.outAt ≤ a ∧ a < s.outAt + s.frameSize (decodeCmd s.cmd).op (decodeCmd s.cmd).record at hin
  omega

theorem busy_done_of_status_zero {s : State} (h : s.status = 0) : s.busy = false ∧ s.done = false := by
  simp [State.busy, State.done, h]

/-- Settles O12: the reset meets the running call, and abandons it. -/
theorem resetDuringACallAbandonsIt : Obligations.ResetDuringACallAbandonsIt := by
  intro s rest hb hp
  obtain ⟨hbusy, hdone⟩ := busy_done_of_status_zero (s := State.abandonCall { s with pending := rest }) rfl
  exact ⟨_, step_busy_action hb hp rfl, hbusy, hdone, by rw [State.abandonCall_eq],
    fun a ha => State.abandonCall_read_outside { s with pending := rest } ha⟩

/-! What a call's result depends on (R287). -/

theorem mem_encCommands_of_op {i : Instr} (h : i.op = .enc) : i ∈ encCommands := by
  revert h
  cases i <;> decide

section
variable {i : Instr} {s t : State}

/-- `ESZ` ends without an error and with the size in RLEN (41_size.md R174). -/
theorem exec_esz_next (hop : i.op = .esz) (h : exec i s = .next t) :
    t.ended .none ∧ t.rlen = encodedSize i.record s.operand := by
  rw [exec_eq_callOf, hop] at h
  obtain ⟨-, rfl⟩ := eszCall_next h
  exact ⟨State.finish_ended _, rfl⟩

/-- `DMS` ends without an error and with the bound in RLEN (41_size.md R175). -/
theorem exec_dms_next (hop : i.op = .dms) (h : exec i s = .next t) :
    t.ended .none ∧ t.rlen = decodedMaxSize i.record s.operand := by
  rw [exec_eq_callOf, hop] at h
  cases h
  exact ⟨State.finish_ended _, rfl⟩

end

/-- Settles O51: by operation. The sizes are functions of LEN, the encoded text and the verdict and bytes of a decode
functions of the input units. -/
theorem callsAreIndependent : Obligations.CallsAreIndependent := by
  intro i s u t w hlen hunits ht hw
  have hop : u.operand = s.operand := hlen
  have hinput : u.inputUnits = s.inputUnits := State.inputUnits_congr hlen hunits
  cases hi : i.op
  case esz =>
    obtain ⟨⟨hterr, -⟩, htrlen⟩ := exec_esz_next hi ht
    obtain ⟨⟨hwerr, -⟩, hwrlen⟩ := exec_esz_next hi hw
    exact ⟨hwerr.trans hterr.symm, fun _ => ⟨by rw [hwrlen, htrlen, hop], nofun⟩⟩
  case dms =>
    obtain ⟨⟨hterr, -⟩, htrlen⟩ := exec_dms_next hi ht
    obtain ⟨⟨hwerr, -⟩, hwrlen⟩ := exec_dms_next hi hw
    exact ⟨hwerr.trans hterr.symm, fun _ => ⟨by rw [hwrlen, htrlen, hop], nofun⟩⟩
  case enc =>
    obtain ⟨⟨hterr, -⟩, -, htout⟩ := exec_enc_next (mem_encCommands_of_op hi) ht
    obtain ⟨⟨hwerr, -⟩, -, hwout⟩ := exec_enc_next (mem_encCommands_of_op hi) hw
    obtain ⟨hrlen, hout⟩ := units_eq_of_outputUnits_eq (hwout.trans ((congrArg _ hinput).trans htout.symm))
    exact ⟨hwerr.trans hterr.symm, fun _ => ⟨hrlen, fun _ => hout⟩⟩
  case dec =>
    obtain ⟨herr, hresult⟩ := exec_dec_congr (mem_decCommands_of_op hi) ht hw (by rw [hinput]) (by rw [hinput])
    exact ⟨herr, fun hnone => (hresult hnone).imp_right fun hout _ => hout⟩

end Sys2Proof.Machine
end

section
namespace Sys2Proof.Machine

/-! The words written out from the table (30_encoding.md R93). -/

/-- Settles O3: each word is the encoding of the command it is claimed for, which the table gives back. -/
theorem wordsWrittenOutDecodeRight : Obligations.WordsWrittenOutDecodeRight :=
  ⟨decodeTableWord_encodeCmd .eszB32c, decodeTableWord_encodeCmd .dmsB32, decodeTableWord_encodeCmd .encB64,
    decodeTableWord_encodeCmd .encHexu, decodeTableWord_encodeCmd .decHexl, decodeTableWord_encodeCmd .decB64un⟩

end Sys2Proof.Machine
end
